-- ==== Sys2Proof/Word.lean ====
section
/-! DEFINITION. The bit-vector names of the spec: a byte, a command word, a wire frame (00_scope.md R6, R8). -/

namespace Sys2Proof

/-- A byte: a colour channel, a wire byte, a byte of the pixel space (`20_memory.md` R41). -/
abbrev Byte := BitVec 8

/-- A command word `cmd[34:0] = op[2:0], arg[31:0]` (`30_encoding.md` R69). -/
abbrev CommandWord := BitVec 35

/-- A 32-bit wire frame; bit 31 is the first bit clocked out (`00_scope.md` R8). -/
abbrev WireWord := BitVec 32

end Sys2Proof
end

