-- ==== Sys2Proof/Config.lean ====
section
/-! DEFINITION. The parameters of an instance (00_scope.md R5) and the one free value the spec leaves to the host's storage. -/

namespace Sys2Proof

/-- `BRIGHT_REDUCE` (`30_encoding.md` R66): the two legal reductions of an 8-bit brightness to 5 bits. -/
inductive BrightReduce where
  /-- `min(b, 31)`: the spec's default. -/
  | saturate
  /-- `b[4:0]`. -/
  | truncate
  deriving DecidableEq, Repr

/-- The identifier of a physical pin: opaque, only compared (`10_state.md` R13, `92_eei_decisions.md` D4). -/
structure Pin where
  /-- The platform's number for the pin; no rule computes with it. -/
  id : Nat
  deriving DecidableEq, Repr

/-- The implementation parameters of `00_scope.md` R5, with the proofs that they are legal, so that an illegal
instance cannot be written down (log entry 1). -/
structure Config where
  /-- `COUNT_W`: width in bits of the `count` operand. -/
  countW : Nat
  /-- `BRIGHT_REDUCE`. -/
  brightReduce : BrightReduce
  /-- `DATA_PIN`. -/
  dataPin : Pin
  /-- `CLOCK_PIN`. -/
  clockPin : Pin
  /-- `GPIO_CFG_CAN_FAIL`. -/
  gpioCfgCanFail : Bool
  /-- `T_SETUP`: dwell of a `SetD` micro-step. -/
  tSetup : Nat
  /-- `T_HIGH`: dwell of a `SetC(1)` micro-step. -/
  tHigh : Nat
  /-- `T_LOW`: dwell of a `SetC(0)` micro-step. -/
  tLow : Nat
  /-- `T_CFG`: dwell of a `Cfg` micro-step. -/
  tCfg : Nat
  /-- `T_ACCEPT`: dwell of an acceptance. -/
  tAccept : Nat
  /-- R5: `COUNT_W` is 4 to 24. -/
  countW_legal : 4 ≤ countW ∧ countW ≤ 24
  /-- R13: the two identifiers differ. -/
  pins_differ : dataPin ≠ clockPin
  /-- R5: each dwell is at least 1. -/
  dwells_legal : 1 ≤ tSetup ∧ 1 ≤ tHigh ∧ 1 ≤ tLow ∧ 1 ≤ tCfg ∧ 1 ≤ tAccept
  deriving DecidableEq, Repr

/-- The defaults of `00_scope.md` R5. DESIGN CHOICE (log entry 2): pins 0 and 1, for which R5 gives no default. -/
def Config.default : Config where
  countW := 16
  brightReduce := .saturate
  dataPin := ⟨0⟩
  clockPin := ⟨1⟩
  gpioCfgCanFail := false
  tSetup := 1
  tHigh := 1
  tLow := 1
  tCfg := 1
  tAccept := 1
  countW_legal := by decide
  pins_differ := by decide
  dwells_legal := by decide

/-- FREE VALUE: what the host's storage returns for a byte it does not hold, by the number of the pixel fetch and the
byte address. `93_implementation_defined.md` U13 leaves it to the host (log entry 7). -/
opaque Config.freePixelByte : Nat → Nat → Byte

end Sys2Proof
end

