-- ==== Sys2Proof/Syntax.lean ====
section
/-! DEFINITION. The rows of spec/opcode_table.json as one inductive: five commands, three reserved codes, three wire formats. -/

namespace Sys2Proof

/-- One constructor per row of the opcode table. The first eight are what the host presents on the command port
(`30_encoding.md` R70, R77); the last three are what the block produces on the wire (R60; log entry 11). -/
inductive Instr where
  /-- INIT, `initialize(device)` (`40_initialize.md` R90). -/
  | init
  /-- START, `startFrame(device)` (`41_start_frame.md` R100). -/
  | start
  /-- COLOR red, green, blue, br8, `sendColor` (`42_send_color.md` R110). -/
  | color (red green blue br8 : Byte)
  /-- END count, `endFrame(device, count)` (`43_end_frame.md` R120). -/
  | endFrame (count : Nat)
  /-- WRITE count, br8, `write` (`44_write.md` R130). -/
  | write (count : Nat) (br8 : Byte)
  /-- Reserved operation code 5 (`30_encoding.md` R77). -/
  | reserved5
  /-- Reserved operation code 6 (`30_encoding.md` R77). -/
  | reserved6
  /-- Reserved operation code 7 (`30_encoding.md` R77). -/
  | reserved7
  /-- wire.START_FRAME: 32 zero bits (`30_encoding.md` R61). -/
  | wireStartFrame
  /-- wire.PIXEL: marker 111, brightness, blue, green, red (`30_encoding.md` R62). -/
  | wirePixel (bright5 : BitVec 5) (blue green red : Byte)
  /-- wire.END_PAD: 8 zero bits (`30_encoding.md` R63). -/
  | wireEndPad
  deriving DecidableEq, Repr

/-- A command of the port (an operation or a reserved code), as against a wire format. -/
def Instr.isCommand : Instr → Bool
  | .init | .start | .color .. | .endFrame _ | .write .. | .reserved5 | .reserved6 | .reserved7 => true
  | .wireStartFrame | .wirePixel .. | .wireEndPad => false

/-- One of the five operations, as against a reserved code or a wire format (`30_encoding.md` R70). -/
def Instr.isOperation : Instr → Bool
  | .init | .start | .color .. | .endFrame _ | .write .. => true
  | .reserved5 | .reserved6 | .reserved7 | .wireStartFrame | .wirePixel .. | .wireEndPad => false

/-- The line of a program that stands for an operation, in the spec's own syntax (`30_encoding.md` R79); the reserved
codes and the wire formats have none. -/
def Instr.text : Instr → Option String
  | .init => some "INIT"
  | .start => some "START"
  | .color r g b v =>
    some ("COLOR " ++ toString r.toNat ++ ", " ++ toString g.toNat ++ ", " ++ toString b.toNat ++ ", " ++ toString v.toNat)
  | .endFrame n => some ("END " ++ toString n)
  | .write n v => some ("WRITE " ++ toString n ++ ", " ++ toString v.toNat)
  | .reserved5 | .reserved6 | .reserved7 | .wireStartFrame | .wirePixel .. | .wireEndPad => none

end Sys2Proof
end

