-- ==== Sys2Proof/WellFormed.lean ====
section
/-! DEFINITION. Which instructions the encodings can express: the `count` operand has `COUNT_W` bits (30_encoding.md R74, R75). -/

namespace Sys2Proof

/-- Every other operand has the width of its field by its type. -/
def Instr.wellFormed (cfg : Config) : Instr → Bool
  | .endFrame n => decide (n < 2 ^ cfg.countW)
  | .write n _ => decide (n < 2 ^ cfg.countW)
  | .init | .start | .color .. | .reserved5 | .reserved6 | .reserved7 | .wireStartFrame | .wirePixel ..
  | .wireEndPad => true

end Sys2Proof
end

