-- ==== Sys2Proof/Decode.lean ====
section
/-! DEFINITION. The decoder of the three formats of spec/opcode_table.json, total and rejecting by name, and the encoder (30_encoding.md R60 to R81). -/

namespace Sys2Proof

/-- A word in one of the three formats of the opcode table: CMD35, WIRE32, WIRE8. -/
inductive RawWord where
  /-- A command word of the port (`30_encoding.md` R69). -/
  | cmd (w : CommandWord)
  /-- A 32-bit group on the wire (`30_encoding.md` R61, R62). -/
  | wire32 (w : WireWord)
  /-- A single byte on the wire (`30_encoding.md` R63). -/
  | wire8 (w : Byte)
  deriving DecidableEq, Repr

/-- Why a word is no instruction. A command word is never rejected (`30_encoding.md` R81). -/
inductive Reject where
  /-- A 32-bit group that is neither the start frame nor a pixel packet: the block never sends it (R60, R78). -/
  | notAWireFrame
  /-- A single byte that is not an end-frame byte: the block never sends it alone (R60, R63). -/
  | notAnEndFrameByte
  /-- Bits stand above the 35 of a command word (R69). -/
  | wordTooWide
  /-- No format of the table has this length. -/
  | noSuchLength
  deriving DecidableEq, Repr

/-! ### Fields of the command word -/

/-- `cmd_op = cmd[34:32]` (`30_encoding.md` R69). -/
def cmdOp (w : CommandWord) : BitVec 3 := w.extractLsb' 32 3

/-- `cmd_arg = cmd[31:0]` (`30_encoding.md` R69). -/
def cmdArg (w : CommandWord) : BitVec 32 := w.extractLsb' 0 32

/-- `cmd_arg[31:24]`: the brightness operand of COLOR and WRITE (R73, R75). -/
def argBr8 (a : BitVec 32) : Byte := a.extractLsb' 24 8

/-- `cmd_arg[23:16]`: red (R73). -/
def argRed (a : BitVec 32) : Byte := a.extractLsb' 16 8

/-- `cmd_arg[15:8]`: green (R73). -/
def argGreen (a : BitVec 32) : Byte := a.extractLsb' 8 8

/-- `cmd_arg[7:0]`: blue (R73). -/
def argBlue (a : BitVec 32) : Byte := a.extractLsb' 0 8

/-- `cmd_arg[COUNT_W-1:0]`: the count of END and WRITE, a natural number (R74, R75, R6). -/
def argCount (cfg : Config) (a : BitVec 32) : Nat := a.toNat % 2 ^ cfg.countW

/-! ### Decoding -/

/-- `30_encoding.md` R70 to R77: every 35-bit word is one of the five operations or reserved (R81). Ignored argument
bits are dropped (R76). -/
def decodeCommand (cfg : Config) (w : CommandWord) : Instr :=
  match (cmdOp w).toNat with
  | 0 => .init
  | 1 => .start
  | 2 => .color (argRed (cmdArg w)) (argGreen (cmdArg w)) (argBlue (cmdArg w)) (argBr8 (cmdArg w))
  | 3 => .endFrame (argCount cfg (cmdArg w))
  | 4 => .write (argCount cfg (cmdArg w)) (argBr8 (cmdArg w))
  | 5 => .reserved5
  | 6 => .reserved6
  | _ => .reserved7

/-- `30_encoding.md` R61, R62: the start frame is all zero; a pixel packet has the marker 111 on top. -/
def decodeWire32 (w : WireWord) : Except Reject Instr :=
  if w = 0 then .ok .wireStartFrame
  else if w.extractLsb' 29 3 = 0b111#3 then
    .ok (.wirePixel (w.extractLsb' 24 5) (w.extractLsb' 16 8) (w.extractLsb' 8 8) (w.extractLsb' 0 8))
  else .error .notAWireFrame

/-- `30_encoding.md` R63: the end-frame byte is zero. -/
def decodeWire8 (w : Byte) : Except Reject Instr :=
  if w = 0 then .ok .wireEndPad else .error .notAnEndFrameByte

/-- The decoder: total on the words of every format. -/
def decode (cfg : Config) : RawWord → Except Reject Instr
  | .cmd w => .ok (decodeCommand cfg w)
  | .wire32 w => decodeWire32 w
  | .wire8 w => decodeWire8 w

/-- A word from its bytes. A command word is given lowest byte first, as the opcode table numbers its bits; a wire
frame is given in the order of the wire, highest byte first (`00_scope.md` R8). -/
def RawWord.ofBytes : List Byte → Except Reject RawWord
  | [b] => .ok (.wire8 b)
  | [b0, b1, b2, b3] => .ok (.wire32 (b0 ++ b1 ++ b2 ++ b3))
  | [b0, b1, b2, b3, b4] =>
    if b4.extractLsb' 3 5 = 0 then .ok (.cmd ((b4.extractLsb' 0 3) ++ b3 ++ b2 ++ b1 ++ b0))
    else .error .wordTooWide
  | _ => .error .noSuchLength

/-- The decoder on any list of bytes. -/
def decodeBytes (cfg : Config) (bs : List Byte) : Except Reject Instr :=
  match RawWord.ofBytes bs with
  | .ok w => decode cfg w
  | .error r => .error r

/-! ### Encoding -/

/-- `cmd[34:0]` of an operation code and an argument (`30_encoding.md` R69). -/
def commandWord (op : BitVec 3) (arg : BitVec 32) : CommandWord := op ++ arg

/-- The start frame `w[31:0]` (`30_encoding.md` R61). -/
def startFrameWord : WireWord := 0

/-- The control byte `0b111, BRIGHT5` of a pixel packet (`30_encoding.md` R65). -/
def controlByte (v : BitVec 5) : Byte := 0b111#3 ++ v

/-- The pixel packet `w[31:0]`: control byte, blue, green, red (`30_encoding.md` R62). -/
def pixelWord (v : BitVec 5) (blue green red : Byte) : WireWord := controlByte v ++ blue ++ green ++ red

/-- The end-frame byte (`30_encoding.md` R63). -/
def endPadByte : Byte := 0

/-- The encoder (`30_encoding.md` R81 for the commands, R61 to R63 for the wire); ignored bits are 0 (R76). -/
def encode : Instr → RawWord
  | .init => .cmd (commandWord 0 0)
  | .start => .cmd (commandWord 1 0)
  | .color r g b v => .cmd (commandWord 2 (v ++ r ++ g ++ b))
  | .endFrame n => .cmd (commandWord 3 (BitVec.ofNat 32 n))
  | .write n v => .cmd (commandWord 4 (v ++ BitVec.ofNat 24 n))
  | .reserved5 => .cmd (commandWord 5 0)
  | .reserved6 => .cmd (commandWord 6 0)
  | .reserved7 => .cmd (commandWord 7 0)
  | .wireStartFrame => .wire32 startFrameWord
  | .wirePixel v b g r => .wire32 (pixelWord v b g r)
  | .wireEndPad => .wire8 endPadByte

/-- The word's bits as one number, bit 0 the least significant, as the opcode table numbers them. -/
def RawWord.toNat : RawWord → Nat
  | .cmd w => w.toNat
  | .wire32 w => w.toNat
  | .wire8 w => w.toNat

/-! ### The opcode table's own words -/

/-- A word of the opcode table by its length and number (log entry 18): 8 bits are WIRE8, 32 bits are WIRE32, more
are CMD35, whose bits above 34 must be 0. -/
def RawWord.ofTable (nbits w : Nat) : Except Reject RawWord :=
  if nbits = 8 then
    if w < 2 ^ 8 then .ok (.wire8 (BitVec.ofNat 8 w)) else .error .wordTooWide
  else if nbits = 32 then
    if w < 2 ^ 32 then .ok (.wire32 (BitVec.ofNat 32 w)) else .error .wordTooWide
  else if 35 ≤ nbits then
    if w < 2 ^ 35 then .ok (.cmd (BitVec.ofNat 35 w)) else .error .wordTooWide
  else .error .noSuchLength

/-- What the decoder reads from a word of the opcode table, at the default parameters (`COUNT_W` = 16, as the table
shows its fields). -/
def decodeTableWord (nbits w : Nat) : Option Instr :=
  match RawWord.ofTable nbits w with
  | .ok raw =>
    match decode .default raw with
    | .ok i => some i
    | .error _ => none
  | .error _ => none

end Sys2Proof
end

