-- ==== Sys2Proof/Machine/State.lean ====
section
/-! DEFINITION. Everything the spec gives the machine, as plain data, with the reasons a step can stop and the state right after reset (10_state.md). -/

namespace Sys2Proof.Machine

/-- A pin event: one change request to the pin latches (`45_bit_transfer.md` R140 to R142). -/
inductive PinEvent where
  /-- `SetD(v)`: the data line is set to the bit value. -/
  | setD (v : Bool)
  /-- `SetC(v)`: the clock line is set. -/
  | setC (v : Bool)
  /-- `Cfg`: both lines become outputs and are driven low. -/
  | cfg
  deriving DecidableEq, Repr

/-- One element of an operation's expansion (`45_bit_transfer.md` R145). -/
inductive Item where
  /-- `Byte(v)`: the 24 events of `XferByte(v)`. -/
  | byte (v : Byte)
  /-- `CfgItem`: the event `Cfg`, guarded by the fault check of R151. -/
  | cfgItem
  deriving DecidableEq, Repr

/-- What the sequencer position points at: a `CfgItem`, a byte of a wire format, or no item of the expansion. -/
inductive Pending where
  /-- The position is at a `CfgItem`. -/
  | cfgItem
  /-- The position is in this wire format. -/
  | frame (f : Instr)
  /-- The position is past the expansion. -/
  | nothing
  deriving DecidableEq, Repr

/-- What a line shows outside the block (`10_state.md` R12). -/
inductive Pad where
  /-- Driven low. -/
  | low
  /-- Driven high. -/
  | high
  /-- `Z`: not driven. -/
  | undriven
  deriving DecidableEq, Repr

/-- A pixel: the ordered triple red, green, blue (`00_scope.md`, glossary). -/
structure Pixel where
  /-- The red channel. -/
  red : Byte
  /-- The green channel. -/
  green : Byte
  /-- The blue channel. -/
  blue : Byte
  deriving DecidableEq, Repr

/-- The four pin latches (`10_state.md` R10). -/
structure Pins where
  /-- `DAT.oe`: the block drives the data line. -/
  datOe : Bool
  /-- `DAT.lvl`: the level of the data line. -/
  datLvl : Bool
  /-- `CLK.oe`: the block drives the clock line. -/
  clkOe : Bool
  /-- `CLK.lvl`: the level of the clock line. -/
  clkLvl : Bool
  deriving DecidableEq, Repr

/-- The inputs of one micro-step that do not come from the command queue (`10_state.md` R34, `60_exceptions.md` R177;
log entries 5, 6, 8). -/
structure HostInput where
  /-- `rst`. -/
  rst : Bool
  /-- The host presents no word in this micro-step (`cmd_valid` = 0) though it may have one waiting. -/
  withhold : Bool
  /-- `gpio_cfg_fail` as the platform drives it. -/
  gpioCfgFail : Bool
  /-- The bytes the host writes into the pixel space in this micro-step. -/
  pixWrites : List Host.Cell
  /-- A pixel fetch of the same micro-step sees the new bytes; otherwise it sees the old ones (`20_memory.md` R51). -/
  writesFirst : Bool
  deriving DecidableEq, Repr

/-- Inputs of a micro-step in which nothing happens outside: no reset, no failure, no write; a waiting word is
presented. -/
def HostInput.quiet : HostInput :=
  { rst := false, withhold := false, gpioCfgFail := false, pixWrites := [], writesFirst := false }

/-- The state of one instance, its parameters, its inputs and the two ghost logs. -/
structure State where
  /-- The parameters (`00_scope.md` R5); nothing writes them. -/
  cfg : Config
  /-- The pin latches (`10_state.md` R10). -/
  pins : Pins
  /-- `BUSY` (`10_state.md` R15). -/
  busy : Bool
  /-- `TX` (`10_state.md` R16). -/
  tx : Bool
  /-- `FAULT` (`10_state.md` R17). -/
  fault : Bool
  /-- `OP` (`10_state.md` R20). -/
  op : BitVec 3
  /-- `BRIGHT5` (`10_state.md` R21). -/
  bright5 : BitVec 5
  /-- `COUNT`, below 2^COUNT_W (`10_state.md` R22; log entry 16). -/
  count : Nat
  /-- `NPAD`, below 2^(COUNT_W-3) (`10_state.md` R22; log entry 16). -/
  npad : Nat
  /-- `RED` (`10_state.md` R23). -/
  red : Byte
  /-- `GREEN` (`10_state.md` R23). -/
  green : Byte
  /-- `BLUE` (`10_state.md` R23). -/
  blue : Byte
  /-- `IDX`, below 2^(COUNT_W+3) (`10_state.md` R24; log entry 16). -/
  idx : Nat
  /-- `BIT` (`10_state.md` R24). -/
  bit : BitVec 3
  /-- `SUB` (`10_state.md` R24). -/
  sub : BitVec 2
  /-- The ghost log `EVT`, oldest first (`10_state.md` R30). -/
  evt : List PinEvent
  /-- The ghost log `WIRE`, first bit first (`10_state.md` R31). -/
  wire : List Bool
  /-- The host's pixel space (`20_memory.md` R41): addresses strictly rising; an unlisted byte is not held. -/
  pix : List Host.Cell
  /-- The MODEL's field: the number of pixel fetches so far, which numbers the free values (log entry 7). -/
  draws : Nat
  /-- The command words the host has yet to present, next one first (`30_encoding.md` R69; log entry 5). -/
  cmds : List CommandWord
  /-- The inputs of the coming micro-steps, next one first; quiet when the list ends (log entry 5). -/
  script : List HostInput
  deriving DecidableEq, Repr

/-- The reasons the interface stops with a fault. The block's own `GpioConfigFault` is not one of them: it is a next
state with `FAULT` = 1 (`60_exceptions.md` R162; log entry 13). All three are safe. -/
inductive Fault where
  /-- Raised by the step of a busy block whose position names no item of its expansion: no such state is reached from
  reset (`10_state.md` R24). Safe. -/
  | noSuchItem
  /-- Raised by the step of a `Byte` item with `SUB` = 3, which is never reached (`45_bit_transfer.md` R152). Safe. -/
  | subOutOfRange
  /-- Raised by a step whose inputs write a byte address that the pixel space does not have (`20_memory.md` R41; log
  entry 8). Safe. -/
  | hostWriteOutsidePixelSpace
  deriving DecidableEq, Repr

/-- The reasons the interface refuses. -/
inductive Refusal where
  /-- Raised by `exec` for a row of the opcode table that has no meaning yet; no arm does. Safe. -/
  | notModelled (mnemonic : String)
  deriving DecidableEq, Repr

/-- The pin latches at reset (`10_state.md` R33): lines undriven, levels low. -/
def Pins.reset : Pins := { datOe := false, datLvl := false, clkOe := false, clkLvl := false }

/-- The block right after reset (`10_state.md` R33), its logs empty, its parameters the defaults of `00_scope.md` R5,
no host input waiting. DESIGN CHOICE (log entry 3): the operand latches, which R33 leaves unspecified, are 0. DESIGN
CHOICE (log entries 5, 7): the host has presented and stored nothing, and no free value is drawn yet. -/
def State.reset : State where
  cfg := .default
  pins := .reset
  busy := false
  tx := false
  fault := false
  op := 0
  bright5 := 0
  count := 0
  npad := 0
  red := 0
  green := 0
  blue := 0
  idx := 0
  bit := 0
  sub := 0
  evt := []
  wire := []
  pix := []
  draws := 0
  cmds := []
  script := []

end Sys2Proof.Machine
end

