-- ==== Sys2Proof/Machine/Flags.lean ====
section
/-! DEFINITION. The block has no flags (10_state.md R26); this file holds its status and its output signals: CONFIGURED, cmd_ready, STATUS, the pads (R12, R18, R19, R34). -/

namespace Sys2Proof.Machine

/-- Both lines are outputs (`10_state.md` R18). -/
def Pins.configured (p : Pins) : Bool := p.datOe && p.clkOe

/-- `CONFIGURED` is derived, not a latch (`10_state.md` R18). -/
def State.configured (s : State) : Bool := s.pins.configured

/-- `cmd_ready` (`10_state.md` R34): not busy and not faulted. -/
def State.cmdReady (s : State) : Bool := !s.busy && !s.fault

/-- `STATUS[3:0]`: CONFIGURED, FAULT, TX, BUSY from bit 3 down (`10_state.md` R19). -/
def State.status (s : State) : BitVec 4 :=
  BitVec.ofBool s.configured ++ BitVec.ofBool s.fault ++ BitVec.ofBool s.tx ++ BitVec.ofBool s.busy

/-- `pad(L)` from the two latches of a line (`10_state.md` R12). -/
def padOf (oe lvl : Bool) : Pad :=
  if oe then (if lvl then .high else .low) else .undriven

/-- `pad(DAT)` (`10_state.md` R12). -/
def State.padDat (s : State) : Pad := padOf s.pins.datOe s.pins.datLvl

/-- `pad(CLK)` (`10_state.md` R12). -/
def State.padClk (s : State) : Pad := padOf s.pins.clkOe s.pins.clkLvl

/-- The pad of a clock pin shared by several instances: the OR of their `CLK.lvl` outputs, driven when any instance has
`CLK.oe` = 1 (`60_exceptions.md` R173). The instances share nothing else. -/
def sharedClockPad (insts : List Pins) : Pad :=
  padOf (insts.any (·.clkOe)) (insts.any (·.clkLvl))

end Sys2Proof.Machine
end

