-- ==== Sys2Proof/Machine/Operands.lean ====
section
/-! DEFINITION. Operand assembly: brightness reduction, the padding length, the bytes of a wire format, the items and the length of an expansion, what the position points at (30_encoding.md R65, R66; 43_end_frame.md R122; 44_write.md R132; 45_bit_transfer.md R146). -/

namespace Sys2Proof.Machine

/-- `BRIGHT_REDUCE` (`30_encoding.md` R66). -/
def reduceBrightness : BrightReduce → Byte → BitVec 5
  | .saturate, b => if b.toNat ≤ 31 then b.extractLsb' 0 5 else 31
  | .truncate, b => b.extractLsb' 0 5

/-- `NPAD = (count + 14) div 16` on natural numbers (`43_end_frame.md` R122). -/
def padBytes (count : Nat) : Nat := (count + 14) / 16

/-- Byte `k` of a 32-bit wire frame, byte 0 sent first (`00_scope.md` R8). -/
def wireByte (w : WireWord) (k : Nat) : Byte := w.extractLsb' (24 - 8 * k) 8

/-- Byte `k` of a wire format (`30_encoding.md` R61 to R63); a command is not sent on the wire. -/
def frameByte : Instr → Nat → Byte
  | .wireStartFrame, k => wireByte startFrameWord k
  | .wirePixel v b g r, k => wireByte (pixelWord v b g r) k
  | .wireEndPad, _ => endPadByte
  | .init, _ | .start, _ | .color .., _ | .endFrame _, _ | .write .., _ | .reserved5, _ | .reserved6, _
  | .reserved7, _ => 0

/-- The pixel packet's four items: control byte, blue, green, red (`42_send_color.md` R111). -/
def packetItems (v : BitVec 5) (p : Pixel) : List Item :=
  [.byte (controlByte v), .byte p.blue, .byte p.green, .byte p.red]

/-- `Expand(INIT)` (`40_initialize.md` R90). -/
def initItems : List Item := [.cfgItem]

/-- `Expand(START)` (`41_start_frame.md` R101). -/
def startItems : List Item := [.cfgItem, .byte 0, .byte 0, .byte 0, .byte 0]

/-- `Expand(END)` (`43_end_frame.md` R121). -/
def endItems (npad : Nat) : List Item := List.replicate npad (.byte 0) ++ [.cfgItem]

/-- The pixel whose packet is being sent (`10_state.md` R23). -/
def State.pixel (s : State) : Pixel := { red := s.red, green := s.green, blue := s.blue }

/-- `Expand(OP)` evaluated on the operand latches (`45_bit_transfer.md` R146). -/
def State.expansion (s : State) : List Item :=
  match s.op.toNat with
  | 0 => initItems
  | 1 => startItems
  | 2 => packetItems s.bright5 s.pixel
  | 3 => endItems s.npad
  | 4 => startItems ++ (List.replicate s.count (packetItems s.bright5 s.pixel)).flatten ++ endItems s.npad
  | _ => []

/-- `Len` (`45_bit_transfer.md` R146). -/
def State.len (s : State) : Nat :=
  match s.op.toNat with
  | 0 => 1
  | 1 => 5
  | 2 => 4
  | 3 => s.npad + 1
  | 4 => 5 + 4 * s.count + s.npad + 1
  | _ => 0

/-- What `IDX` points at (`44_write.md` R132 for WRITE; the expansions of R90, R101, R111, R121 for the others). -/
def State.pending (s : State) : Pending :=
  match s.op.toNat with
  | 0 => if s.idx = 0 then .cfgItem else .nothing
  | 1 => if s.idx = 0 then .cfgItem else if s.idx < 5 then .frame .wireStartFrame else .nothing
  | 2 => if s.idx < 4 then .frame (.wirePixel s.bright5 s.blue s.green s.red) else .nothing
  | 3 => if s.idx < s.npad then .frame .wireEndPad else if s.idx = s.npad then .cfgItem else .nothing
  | 4 =>
    if s.idx = 0 then .cfgItem
    else if s.idx < 5 then .frame .wireStartFrame
    else if s.idx < 5 + 4 * s.count then .frame (.wirePixel s.bright5 s.blue s.green s.red)
    else if s.idx < 5 + 4 * s.count + s.npad then .frame .wireEndPad
    else if s.idx = 5 + 4 * s.count + s.npad then .cfgItem
    else .nothing
  | _ => .nothing

/-- Which byte of its wire format `IDX` points at (`44_write.md` R132). -/
def State.byteIndex (s : State) : Nat :=
  match s.op.toNat with
  | 1 => s.idx - 1
  | 2 => s.idx
  | 4 => if s.idx < 5 then s.idx - 1 else (s.idx - 5) % 4
  | _ => 0

/-- `Item(IDX)` (`45_bit_transfer.md` R146). -/
def State.item (s : State) : Option Item :=
  match s.pending with
  | .cfgItem => some .cfgItem
  | .frame f => some (.byte (frameByte f s.byteIndex))
  | .nothing => none

/-- The pixel to be fetched before the pending pin event: at the first pin event of a control byte of a WRITE
(`44_write.md` R134, `45_bit_transfer.md` R152). -/
def State.fetchDue (s : State) : Option Nat :=
  if s.op = 4 ∧ s.bit = 0 ∧ s.sub = 0 ∧ 5 ≤ s.idx ∧ s.idx < 5 + 4 * s.count ∧ (s.idx - 5) % 4 = 0 then
    some ((s.idx - 5) / 4)
  else none

end Sys2Proof.Machine
end

