-- ==== Sys2Proof/Machine/Ops.lean ====
section
/-! DEFINITION. The shared operations: the pixel space, pin events, acceptance, pixel fetch, the fault and reset, and the step of an item (20_memory.md; 45_bit_transfer.md R140 to R153; 60_exceptions.md R162; 70_reset_and_hazards.md R190). -/

namespace Sys2Proof.Machine

/-! ### The pixel space -/

/-- The canonical form: addresses strictly rising. No entry equals what an unlisted address reads as, because an
unlisted byte is not held. -/
def Memory.wf (m : List Host.Cell) : Bool := decide (m.Pairwise (fun a b => a.1 < b.1))

/-- The byte at an address, if the host holds one. -/
def Memory.read : List Host.Cell → Nat → Option Byte
  | [], _ => none
  | c :: m, a => if c.1 = a then some c.2 else Memory.read m a

/-- One byte written, in its place. -/
def Memory.write : List Host.Cell → Nat → Byte → List Host.Cell
  | [], a, b => [(a, b)]
  | c :: m, a, b =>
    if a < c.1 then (a, b) :: c :: m
    else if a = c.1 then (a, b) :: m
    else c :: Memory.write m a b

/-- Several bytes written, the first first. -/
def Memory.writeAll (m : List Host.Cell) (ws : List Host.Cell) : List Host.Cell :=
  ws.foldl (fun m c => Memory.write m c.1 c.2) m

/-- The pixel space has byte addresses of `COUNT_W + 2` bits (`20_memory.md` R41). -/
def Memory.hasAddress (cfg : Config) (a : Nat) : Bool := decide (a < 2 ^ (cfg.countW + 2))

/-- The byte on `pix_data` for an address in pixel fetch number `draw`: the host's byte, or a free value where it
holds none (log entry 7). -/
def Memory.fetchByte (m : List Host.Cell) (draw a : Nat) : Byte :=
  (Memory.read m a).getD (Config.freePixelByte draw a)

/-- The byte a read at this moment gives. -/
def State.byteAt (s : State) (a : Nat) : Byte := Memory.fetchByte s.pix s.draws a

/-- `MemRead(addr, n)`: the bytes in ascending address order (`00_scope.md` R7). -/
def State.memRead (s : State) (a n : Nat) : List Byte :=
  (List.range n).map (fun k => s.byteAt (a + k))

/-- The host holds pixels `0` to `n - 1` (`70_reset_and_hazards.md` R195, point 4). -/
def State.holdsPixels (s : State) (n : Nat) : Bool :=
  (List.range (3 * n)).all (fun a => (Memory.read s.pix a).isSome)

/-- What the host answers on `pix_data[23:0]` to a byte address: the bytes there, at the next and at the one after it in
bits 23 to 16, 15 to 8 and 7 to 0 (`10_state.md` R34). -/
def State.pixDataAt (a : Nat) (s : State) : BitVec 24 := s.byteAt a ++ s.byteAt (a + 1) ++ s.byteAt (a + 2)

/-- Pixel fetch of pixel `i`: `RED`, `GREEN`, `BLUE` from the three bytes `pix_data` carries for `pix_addr` = `3*i`
(`44_write.md` R134, `10_state.md` R34). -/
def State.pixelFetch (i : Nat) (s : State) : State :=
  { s with
    red := (s.pixDataAt (3 * i)).extractLsb' 16 8, green := (s.pixDataAt (3 * i)).extractLsb' 8 8,
    blue := (s.pixDataAt (3 * i)).extractLsb' 0 8, draws := s.draws + 1 }

/-- The pixel fetch of `45_bit_transfer.md` R152, in the micro-steps that have one. -/
def State.fetchIfDue (s : State) : State :=
  match s.fetchDue with
  | some i => s.pixelFetch i
  | none => s

/-! ### Pin events -/

/-- The pin latches after an event (`10_state.md` R11; `45_bit_transfer.md` R140 to R142). -/
def Pins.after (e : PinEvent) (p : Pins) : Pins :=
  match e with
  | .setD v => { p with datLvl := v }
  | .setC v => { p with clkLvl := v }
  | .cfg => { datOe := true, datLvl := false, clkOe := true, clkLvl := false }

/-- `TX` after an event: `SetD` sets it, `Cfg` clears it (`10_state.md` R16). -/
def txAfter (e : PinEvent) (tx : Bool) : Bool :=
  match e with
  | .setD _ => true
  | .setC _ => tx
  | .cfg => false

/-- The bit an event puts on `WIRE`: the data level at a `SetC(1)` while the lines are configured (`10_state.md`
R31). -/
def sampledBits (e : PinEvent) (p : Pins) : List Bool :=
  match e with
  | .setC true => if p.configured then [p.datLvl] else []
  | .setC false | .setD _ | .cfg => []

/-- `emit(e)`: the event is performed on the latches and logged (`00_scope.md` R7, `10_state.md` R30, R31). -/
def State.emit (e : PinEvent) (s : State) : State :=
  { s with
    pins := s.pins.after e, tx := txAfter e s.tx, evt := s.evt ++ [e], wire := s.wire ++ sampledBits e s.pins }

/-! ### The fault, and reset -/

/-- `raise GpioConfigFault()`: `FAULT <- 1` and nothing else (`60_exceptions.md` R162). -/
def State.raiseGpioConfigFault (s : State) : State := { s with fault := true }

/-- Reset, the only way out of the fault (`60_exceptions.md` R163): the block and its logs take the reset values of
`10_state.md` R33 (log entries 3, 4). The parameters, the pixel space and the host's inputs are not the block's. -/
def State.resetBlock (s : State) : State :=
  { s with
    pins := .reset, busy := false, tx := false, fault := false, op := 0, bright5 := 0, count := 0, npad := 0, red := 0,
    green := 0, blue := 0, idx := 0, bit := 0, sub := 0, evt := [], wire := [] }

/-! ### Acceptance and the step of an item -/

/-- The operand latches loaded, the position at 0, `BUSY` = 1. -/
def State.begun (s : State) : State := { s with idx := 0, bit := 0, sub := 0, busy := true }

/-- The position at 0 and `BUSY` = 0. -/
def State.completed (s : State) : State := { s with idx := 0, bit := 0, sub := 0, busy := false }

/-- Acceptance of a command (`45_bit_transfer.md` R149): `load` writes `OP` and the operand latches, the position
returns to 0 and `BUSY` to 1. A command presented while `cmd_ready` = 0 has no effect (`30_encoding.md` R69). -/
def State.accept (load : State → State) (s : State) : State :=
  if s.cmdReady then (load s).begun else s

/-- `BIT` and `SUB` written together. -/
def State.setPos (bit : BitVec 3) (sub : BitVec 2) (s : State) : State := { s with bit := bit, sub := sub }

/-- Finishing an item (`45_bit_transfer.md` R153). -/
def State.finishItem (s : State) : State :=
  if s.idx + 1 = s.len then { s with idx := 0, busy := false } else { s with idx := s.idx + 1 }

/-- Step of a `CfgItem` (`45_bit_transfer.md` R151). -/
def State.cfgItemStep (fails : Bool) (s : State) : State :=
  if fails then s.raiseGpioConfigFault else (s.emit .cfg).finishItem

/-- Step of a `Byte(v)` item, by `SUB` (`45_bit_transfer.md` R152), its pixel fetch already done. A block that is not
busy, or is faulted, performs no pin event (R150). -/
def State.byteStep (v : Byte) (s : State) : Host.Outcome State Fault Refusal :=
  if s.busy && !s.fault then
    match s.sub.toNat with
    | 0 => .next ((s.emit (.setD (v.getLsbD (7 - s.bit.toNat)))).setPos s.bit 1)
    | 1 => .next ((s.emit (.setC true)).setPos s.bit 2)
    | 2 =>
      if s.bit = 7 then .next ((s.emit (.setC false)).setPos 0 0).finishItem
      else .next ((s.emit (.setC false)).setPos (s.bit + 1) 0)
    | _ => .fault .subOutOfRange
  else .next s

/-! ### Inputs -/

/-- The inputs of this micro-step; quiet when the script has ended. -/
def State.input (s : State) : HostInput := s.script.headD .quiet

/-- Every byte the host writes in this micro-step is at an address of the pixel space (`20_memory.md` R41). -/
def HostInput.writesLegal (cfg : Config) (inp : HostInput) : Bool :=
  inp.pixWrites.all (fun c => Memory.hasAddress cfg c.1)

/-- `gpio_cfg_fail` as the block sees it: tied to 0 when `GPIO_CFG_CAN_FAIL` is false (`60_exceptions.md` R167). -/
def HostInput.cfgFails (cfg : Config) (inp : HostInput) : Bool := cfg.gpioCfgCanFail && inp.gpioCfgFail

/-- The word on the command port, if `cmd_valid` = 1 (`30_encoding.md` R69). -/
def State.presented (inp : HostInput) (s : State) : Option CommandWord :=
  if inp.withhold then none else s.cmds.head?

/-- The host's queue after its first word is taken. -/
def State.takeCommand (s : State) : State := { s with cmds := s.cmds.tail }

/-- The host's writes to the pixel space. -/
def State.hostWrites (inp : HostInput) (s : State) : State :=
  { s with pix := Memory.writeAll s.pix inp.pixWrites }

/-- What comes before the block's micro-step: its inputs leave the script, and host writes that the micro-step sees
land (`20_memory.md` R51). -/
def State.beginMicroStep (inp : HostInput) (s : State) : State :=
  if inp.writesFirst then { s with pix := Memory.writeAll s.pix inp.pixWrites, script := s.script.tail }
  else { s with script := s.script.tail }

/-- The byte address on `pix_addr`, `3*i` in the micro-step that fetches pixel `i` (`20_memory.md` R42), so not in one
with `rst` = 1. The spec gives the signal no value at other times (log entry 22). -/
def State.pixAddr (s : State) : Option Nat :=
  if s.busy && !s.fault && !s.input.rst then s.fetchDue.map (3 * ·) else none

/-- `pix_data` in a pixel fetch: the host's answer to `pix_addr`, after the host writes that the micro-step sees
(`10_state.md` R34, `20_memory.md` R51). -/
def State.pixData (s : State) : Option (BitVec 24) :=
  s.pixAddr.map (fun a => (s.beginMicroStep s.input).pixDataAt a)

/-- What comes after the block's micro-step: host writes that the micro-step did not see land (`20_memory.md` R51). -/
def State.endMicroStep (inp : HostInput) (s : State) : State :=
  if inp.writesFirst then s else s.hostWrites inp

end Sys2Proof.Machine
end

