-- ==== Sys2Proof/Machine/EndFrame.lean ====
section
/-! DEFINITION. Operation END and the end-frame byte it sends (43_end_frame.md R120; 30_encoding.md R63). -/

namespace Sys2Proof.Machine

/-- END latches `COUNT` and `NPAD` (`45_bit_transfer.md` R149, `43_end_frame.md` R122). -/
def State.loadEndFrame (count : Nat) (s : State) : State :=
  { s with op := 3, count := count, npad := padBytes count }

/-- END taken; its expansion is the padding and a `CfgItem` (`43_end_frame.md` R120, R121). -/
def execEndFrame (count : Nat) (s : State) : Host.Outcome State Fault Refusal :=
  .next (s.accept (State.loadEndFrame count))

/-- The end-frame byte on the wire: its pending pin event (`30_encoding.md` R63, `45_bit_transfer.md` R152; log entry
11). -/
def execWireEndPad (s : State) : Host.Outcome State Fault Refusal :=
  s.byteStep (frameByte .wireEndPad s.byteIndex)

end Sys2Proof.Machine
end

