-- ==== Sys2Proof/Machine/PinConfig.lean ====
section
/-! DEFINITION. Operation INIT (40_initialize.md R90). -/

namespace Sys2Proof.Machine

/-- INIT latches its operation code only (`45_bit_transfer.md` R149). -/
def State.loadInit (s : State) : State := { s with op := 0 }

/-- INIT taken: no operand (`45_bit_transfer.md` R149); its expansion is one `CfgItem` (`40_initialize.md` R90). -/
def execInit (s : State) : Host.Outcome State Fault Refusal :=
  .next (s.accept State.loadInit)

end Sys2Proof.Machine
end

