-- ==== Sys2Proof/Machine/PixelPacket.lean ====
section
/-! DEFINITION. Operation COLOR and the pixel packet it sends (42_send_color.md R110; 30_encoding.md R62). -/

namespace Sys2Proof.Machine

/-- COLOR latches the colour and the reduced brightness (`45_bit_transfer.md` R149, `30_encoding.md` R66). -/
def State.loadColor (red green blue br8 : Byte) (s : State) : State :=
  { s with op := 2, bright5 := reduceBrightness s.cfg.brightReduce br8, red := red, green := green, blue := blue }

/-- COLOR taken; its expansion is the pixel packet (`42_send_color.md` R110, R111). -/
def execColor (red green blue br8 : Byte) (s : State) : Host.Outcome State Fault Refusal :=
  .next (s.accept (State.loadColor red green blue br8))

/-- The pixel packet on the wire: the pending pin event of its current byte (`30_encoding.md` R62, `45_bit_transfer.md`
R152; log entry 11). -/
def execWirePixel (bright5 : BitVec 5) (blue green red : Byte) (s : State) : Host.Outcome State Fault Refusal :=
  s.byteStep (frameByte (.wirePixel bright5 blue green red) s.byteIndex)

end Sys2Proof.Machine
end

