-- ==== Sys2Proof/Machine/Reserved.lean ====
section
/-! DEFINITION. The reserved operation codes: taken, and nothing done (30_encoding.md R77; log entry 9). -/

namespace Sys2Proof.Machine

/-- A reserved word is taken: no latch changes, `BUSY` stays 0, no pin event happens (`30_encoding.md` R77). -/
def State.acceptReserved (s : State) : State := s

/-- Code 5 (`30_encoding.md` R77). -/
def execReserved5 (s : State) : Host.Outcome State Fault Refusal := .next s.acceptReserved

/-- Code 6 (`30_encoding.md` R77). -/
def execReserved6 (s : State) : Host.Outcome State Fault Refusal := .next s.acceptReserved

/-- Code 7 (`30_encoding.md` R77). -/
def execReserved7 (s : State) : Host.Outcome State Fault Refusal := .next s.acceptReserved

end Sys2Proof.Machine
end

