-- ==== Sys2Proof/Machine/StartFrame.lean ====
section
/-! DEFINITION. Operation START and the start frame it sends (41_start_frame.md R100; 30_encoding.md R61). -/

namespace Sys2Proof.Machine

/-- START latches its operation code only (`45_bit_transfer.md` R149). -/
def State.loadStart (s : State) : State := { s with op := 1 }

/-- START taken: no operand (`45_bit_transfer.md` R149); its expansion is a `CfgItem` and the start frame
(`41_start_frame.md` R101). -/
def execStart (s : State) : Host.Outcome State Fault Refusal :=
  .next (s.accept State.loadStart)

/-- The start frame on the wire: the pending pin event of its current byte (`30_encoding.md` R61, `45_bit_transfer.md`
R152; log entry 11). -/
def execWireStartFrame (s : State) : Host.Outcome State Fault Refusal :=
  s.byteStep (frameByte .wireStartFrame s.byteIndex)

end Sys2Proof.Machine
end

