-- ==== Sys2Proof/Machine/WholeFrame.lean ====
section
/-! DEFINITION. Operation WRITE, the whole-frame transmission (44_write.md R130). -/

namespace Sys2Proof.Machine

/-- WRITE latches `COUNT`, `NPAD` and the reduced brightness (`45_bit_transfer.md` R149, `44_write.md` R133). -/
def State.loadWrite (count : Nat) (br8 : Byte) (s : State) : State :=
  { s with
    op := 4, count := count, npad := padBytes count, bright5 := reduceBrightness s.cfg.brightReduce br8 }

/-- WRITE taken; the pixels are fetched later, each at its packet (`44_write.md` R130, R131, R134). -/
def execWrite (count : Nat) (br8 : Byte) (s : State) : Host.Outcome State Fault Refusal :=
  .next (s.accept (State.loadWrite count br8))

end Sys2Proof.Machine
end

