-- ==== Sys2Proof/Machine/Dispatch.lean ====
section
/-! DEFINITION. One arm per row of spec/opcode_table.json. The arm of a command is its acceptance (45_bit_transfer.md R149); the arm of a wire format is its pending pin event (R152); log entries 11 and 17. -/

namespace Sys2Proof.Machine

def exec (i : Instr) (s : State) : Host.Outcome State Fault Refusal :=
  match i with
  | .init => Sys2Proof.Machine.execInit s
  | .start => Sys2Proof.Machine.execStart s
  | .color red green blue br8 => Sys2Proof.Machine.execColor red green blue br8 s
  | .endFrame count => Sys2Proof.Machine.execEndFrame count s
  | .write count br8 => Sys2Proof.Machine.execWrite count br8 s
  | .reserved5 => Sys2Proof.Machine.execReserved5 s
  | .reserved6 => Sys2Proof.Machine.execReserved6 s
  | .reserved7 => Sys2Proof.Machine.execReserved7 s
  | .wireStartFrame => Sys2Proof.Machine.execWireStartFrame s
  | .wirePixel bright5 blue green red => Sys2Proof.Machine.execWirePixel bright5 blue green red s
  | .wireEndPad => Sys2Proof.Machine.execWireEndPad s

end Sys2Proof.Machine
end

