-- ==== Sys2Proof/Machine/MicroStep.lean ====
section
/-! DEFINITION. The block's micro-step in the order of priority of 60_exceptions.md R168, and where a word is placed to run next. -/

namespace Sys2Proof.Machine

/-- The pin-event step of a busy block (`45_bit_transfer.md` R150): the pixel fetch if one is due, then the `CfgItem`
(R151) or the pending pin event of the wire format the position is in (R152). -/
def State.busyStep (inp : HostInput) (s : State) : Host.Outcome State Fault Refusal :=
  match s.fetchIfDue.pending with
  | .cfgItem => .next (s.fetchIfDue.cfgItemStep (inp.cfgFails s.cfg))
  | .frame f => exec f s.fetchIfDue
  | .nothing => .fault .noSuchItem

/-- Idle: acceptance of the presented word, or nothing (`45_bit_transfer.md` R149, R155). -/
def State.idleStep (inp : HostInput) (s : State) : Host.Outcome State Fault Refusal :=
  match s.presented inp with
  | some w => exec (decodeCommand s.cfg w) s.takeCommand
  | none => .next s

/-- One micro-step of the block: reset, else nothing when faulted, else the pin-event step, else acceptance, else
nothing (`60_exceptions.md` R168). -/
def State.blockStep (inp : HostInput) (s : State) : Host.Outcome State Fault Refusal :=
  if inp.rst then .next s.resetBlock
  else if s.fault then .next s
  else if s.busy then s.busyStep inp
  else s.idleStep inp

/-- The rest of the micro-step after the block's: host writes that it did not see. -/
def finishMicroStep (inp : HostInput) : Host.Outcome State Fault Refusal → Host.Outcome State Fault Refusal
  | .next s => .next (s.endMicroStep inp)
  | .fault r => .fault r
  | .refused r => .refused r

/-- One micro-step with its inputs. -/
def State.microStep (inp : HostInput) (s : State) : Host.Outcome State Fault Refusal :=
  if inp.writesLegal s.cfg then finishMicroStep inp ((s.beginMicroStep inp).blockStep inp)
  else .fault .hostWriteOutsidePixelSpace

/-- A command word placed where the next step takes it: first on the port of a ready block, in a quiet micro-step
(log entry 12). -/
def State.presentWord (w : CommandWord) (s : State) : State :=
  { s with busy := false, fault := false, cmds := w :: s.cmds, script := .quiet :: s.script }

/-- The sequencer placed at the head of a wire format, so that the next steps send it: the start frame in START, the
packet in COLOR, the end-frame byte in an END with one (log entries 11, 12). Anything else is left alone. -/
def State.presentFrame (f : Instr) (s : State) : State :=
  match f with
  | .wireStartFrame =>
    { s with busy := true, fault := false, op := 1, idx := 1, bit := 0, sub := 0, script := .quiet :: s.script }
  | .wirePixel v b g r =>
    { s with
      busy := true, fault := false, op := 2, bright5 := v, red := r, green := g, blue := b, idx := 0, bit := 0, sub := 0,
      script := .quiet :: s.script }
  | .wireEndPad =>
    { s with
      busy := true, fault := false, op := 3, count := 2, npad := padBytes 2, idx := 0, bit := 0, sub := 0,
      script := .quiet :: s.script }
  | .init | .start | .color .. | .endFrame _ | .write .. | .reserved5 | .reserved6 | .reserved7 => s

/-- A word of the opcode table placed where the next step runs it. A word that is no instruction is not placed. -/
def State.presentTableWord (nbits w : Nat) (s : State) : State :=
  match RawWord.ofTable nbits w with
  | .ok (.cmd c) => s.presentWord c
  | .ok (.wire32 x) =>
    match decodeWire32 x with
    | .ok f => s.presentFrame f
    | .error _ => s
  | .ok (.wire8 x) =>
    match decodeWire8 x with
    | .ok f => s.presentFrame f
    | .error _ => s
  | .error _ => s

end Sys2Proof.Machine
end

