-- ==== Sys2Proof/Machine/Step.lean ====
section
/-! DEFINITION. The step of the interface: one micro-step with the next inputs of the script (45_bit_transfer.md section 3). -/

namespace Sys2Proof.Machine

/-- One micro-step. -/
def step (s : State) : Host.Outcome State Fault Refusal := s.microStep s.input

/-- The state whose very next step runs the instruction of a word of the opcode table. -/
def State.withFetchWord (s : State) (nbits w : Nat) : State := s.presentTableWord nbits w

end Sys2Proof.Machine
end

