-- ==== Sys2Proof/Machine/Run.lean ====
section
/-! DEFINITION. Runs of micro-steps, and when a run is over (45_bit_transfer.md R156). -/

namespace Sys2Proof.Machine

/-- `k` micro-steps, stopping at the first fault or refusal. -/
def run : Nat → State → Host.Outcome State Fault Refusal
  | 0, s => .next s
  | k + 1, s =>
    match step s with
    | .next t => run k t
    | .fault r => .fault r
    | .refused r => .refused r

/-- How far a run has come (`45_bit_transfer.md` R156). -/
inductive RunStatus where
  /-- The block is idle without fault and the host has no more commands: the state is final. -/
  | over
  /-- A command is in progress or a word waits: the state is not final. -/
  | underWay
  /-- `FAULT` = 1: the run ended in a fault, and the state is never a final one. -/
  | endedInFault
  deriving DecidableEq, Repr

/-- The status of a run that has come to this state (`45_bit_transfer.md` R156). -/
def State.runStatus (s : State) : RunStatus :=
  if s.fault then .endedInFault
  else if s.busy || !s.cmds.isEmpty then .underWay
  else .over

/-- The result of a run of `k` micro-steps: the state it has come to, if the run is over there
(`45_bit_transfer.md` R156). -/
def runResult (k : Nat) (s : State) : Option State :=
  match run k s with
  | .next t => if t.runStatus = .over then some t else none
  | .fault _ => none
  | .refused _ => none

end Sys2Proof.Machine
end

