-- ==== Sys2Proof/Machine/Command.lean ====
section
/-! DEFINITION. The command-level meaning (45_bit_transfer.md R143 to R147, R154): the events of an expansion, and the state after a command that runs undisturbed. The micro-step form is the definition; that this form agrees with it is a statement. -/

namespace Sys2Proof.Machine

/-- `XferBit(b)` (`45_bit_transfer.md` R143). -/
def xferBit (b : Bool) : List PinEvent := [.setD b, .setC true, .setC false]

/-- The bits of a byte in the order of the wire, most significant first (`20_memory.md` R44). -/
def byteBits (v : Byte) : List Bool :=
  [v.getLsbD 7, v.getLsbD 6, v.getLsbD 5, v.getLsbD 4, v.getLsbD 3, v.getLsbD 2, v.getLsbD 1, v.getLsbD 0]

/-- `XferByte(v)` (`45_bit_transfer.md` R144). -/
def xferByte (v : Byte) : List PinEvent := (byteBits v).flatMap xferBit

/-- `Events` of an item (`45_bit_transfer.md` R145). -/
def Item.events : Item → List PinEvent
  | .byte v => xferByte v
  | .cfgItem => [.cfg]

/-- `Events` of a list of items (`45_bit_transfer.md` R145). -/
def itemEvents (items : List Item) : List PinEvent := items.flatMap Item.events

/-- The bits the byte items of a list stand for, in the order of the wire (`45_bit_transfer.md` R144). -/
def Item.bits : Item → List Bool
  | .byte v => byteBits v
  | .cfgItem => []

/-- The bits of a list of items. -/
def itemBits (items : List Item) : List Bool := items.flatMap Item.bits

/-- Pin-event steps of an item: 24 for a byte, 1 for a `CfgItem` (`45_bit_transfer.md` R154). -/
def Item.steps : Item → Nat
  | .byte _ => 24
  | .cfgItem => 1

/-- A list of events performed in order. -/
def State.performAll (es : List PinEvent) (s : State) : State := es.foldl (fun s e => s.emit e) s

/-- Pixel `i` as a WRITE accepted now fetches it when the host leaves the pixel space alone (`20_memory.md` R51). -/
def State.pixelAt (s : State) (i : Nat) : Pixel where
  red := Memory.fetchByte s.pix (s.draws + i) (3 * i)
  green := Memory.fetchByte s.pix (s.draws + i) (3 * i + 1)
  blue := Memory.fetchByte s.pix (s.draws + i) (3 * i + 2)

/-- `Expand(c)` of a command accepted now (`40_initialize.md` R90, `41_start_frame.md` R101, `42_send_color.md` R111,
`43_end_frame.md` R121, `44_write.md` R131; a reserved code expands to nothing, `30_encoding.md` R77). -/
def State.expand (s : State) : Instr → List Item
  | .init => initItems
  | .start => startItems
  | .color r g b v => packetItems (reduceBrightness s.cfg.brightReduce v) { red := r, green := g, blue := b }
  | .endFrame n => endItems (padBytes n)
  | .write n v =>
    startItems
      ++ (List.range n).flatMap (fun i => packetItems (reduceBrightness s.cfg.brightReduce v) (s.pixelAt i))
      ++ endItems (padBytes n)
  | .reserved5 | .reserved6 | .reserved7 | .wireStartFrame | .wirePixel .. | .wireEndPad => []

/-- The operand latches as acceptance writes them (`45_bit_transfer.md` R149). -/
def State.latched (s : State) : Instr → State
  | .init => s.loadInit
  | .start => s.loadStart
  | .color r g b v => s.loadColor r g b v
  | .endFrame n => s.loadEndFrame n
  | .write n v => s.loadWrite n v
  | .reserved5 | .reserved6 | .reserved7 | .wireStartFrame | .wirePixel .. | .wireEndPad => s

/-- The colour of the last pixel after a WRITE of `n + 1` pixels (`45_bit_transfer.md` R147). -/
def State.keepLastPixel (s : State) : Instr → State → State
  | .write (n + 1) _, t =>
    { t with
      red := (s.pixelAt n).red, green := (s.pixelAt n).green, blue := (s.pixelAt n).blue, draws := s.draws + (n + 1) }
  | .write 0 _, t => t
  | .init, t | .start, t | .color .., t | .endFrame _, t | .reserved5, t | .reserved6, t | .reserved7, t
  | .wireStartFrame, t | .wirePixel .., t | .wireEndPad, t => t

/-- The state after a command accepted in `s` has run undisturbed (`45_bit_transfer.md` R147), but for the inputs its
micro-steps have used up; after a reserved word, `s` itself (`30_encoding.md` R77). -/
def State.commandMeaning (s : State) (i : Instr) : State :=
  if i.isOperation then (s.keepLastPixel i ((s.latched i).performAll (itemEvents (s.expand i)))).completed else s

/-- The pin-event steps of an operation (`45_bit_transfer.md` R154). -/
def microSteps : Instr → Nat
  | .init => 1
  | .start => 97
  | .color .. => 96
  | .endFrame n => 24 * padBytes n + 1
  | .write n _ => 2 + 24 * (4 + 4 * n + padBytes n)
  | .reserved5 | .reserved6 | .reserved7 | .wireStartFrame | .wirePixel .. | .wireEndPad => 0

/-- The command word of an instruction (`30_encoding.md` R81); a wire format has none. -/
def commandWordOf (i : Instr) : Option CommandWord :=
  match encode i with
  | .cmd w => some w
  | .wire32 _ | .wire8 _ => none

/-- The host's own expansion of `WRITE n, v`: START, one COLOR per pixel, END (`44_write.md` R136). -/
def State.hostExpansion (s : State) (n : Nat) (v : Byte) : List Instr :=
  [.start]
    ++ (List.range n).map
      (fun i => .color (s.pixelAt i).red (s.pixelAt i).green (s.pixelAt i).blue v)
    ++ [.endFrame n]

end Sys2Proof.Machine
end

