-- ==== Sys2Proof/Machine/Timing.lean ====
section
/-! DEFINITION. The dwell of a micro-step in cycles of clk (70_reset_and_hazards.md R210, R211). No step reads it: the model has no time (R212; log entry 15). -/

namespace Sys2Proof.Machine

/-- The dwell of a pin event (`70_reset_and_hazards.md` R210). -/
def dwellOfEvent (cfg : Config) : PinEvent → Nat
  | .setD _ => cfg.tSetup
  | .setC true => cfg.tHigh
  | .setC false => cfg.tLow
  | .cfg => cfg.tCfg

/-- The pin event that the coming micro-step of a busy block performs when no reset and no fault comes
(`10_state.md` R24). -/
def State.nextEvent (s : State) : Option PinEvent :=
  match s.fetchIfDue.item with
  | some .cfgItem => some .cfg
  | some (.byte v) =>
    match s.sub.toNat with
    | 0 => some (.setD (v.getLsbD (7 - s.bit.toNat)))
    | 1 => some (.setC true)
    | 2 => some (.setC false)
    | _ => none
  | none => none

/-- The dwell of the coming micro-step, where R210 names one: a pin event or an acceptance. DESIGN CHOICE (log entry 15):
a micro-step for which R5 and R210 name none has none, and counts 0 cycles: one of a reset, of a faulted or an idle block,
and the one that raises `GpioConfigFault`, in which no `Cfg` is performed. -/
def State.dwell (s : State) : Option Nat :=
  if s.input.rst || s.fault then none
  else if s.busy then
    if s.pending = .cfgItem ∧ s.input.cfgFails s.cfg = true then none else s.nextEvent.map (dwellOfEvent s.cfg)
  else (s.presented s.input).map (fun _ => s.cfg.tAccept)

/-- Cycles of a list of pin events (`70_reset_and_hazards.md` R210). -/
def eventCycles (cfg : Config) (es : List PinEvent) : Nat := (es.map (dwellOfEvent cfg)).sum

/-- Cycles of the next `k` micro-steps, counting those for which R210 names a dwell. -/
def runCycles : Nat → State → Nat
  | 0, _ => 0
  | k + 1, s =>
    s.dwell.getD 0 +
      match step s with
      | .next t => runCycles k t
      | .fault _ => 0
      | .refused _ => 0

/-- Cycles from the acceptance of a command to `cmd_ready` = 1 (`70_reset_and_hazards.md` R211): the acceptance, then
the pin events of its expansion. -/
def State.commandCycles (s : State) (i : Instr) : Nat :=
  s.cfg.tAccept + eventCycles s.cfg (itemEvents (s.expand i))

end Sys2Proof.Machine
end

