-- ==== Sys2Proof/Machine/Receiver.lean ====
section
/-! DEFINITION. The byte stream on the wire and its two decoders (10_state.md R31; 30_encoding.md R64, R68). -/

namespace Sys2Proof.Machine

/-- A byte from its bits, the first one the most significant (`10_state.md` R31). -/
def byteOfBits (b7 b6 b5 b4 b3 b2 b1 b0 : Bool) : Byte :=
  BitVec.ofBool b7 ++ BitVec.ofBool b6 ++ BitVec.ofBool b5 ++ BitVec.ofBool b4 ++ BitVec.ofBool b3 ++ BitVec.ofBool b2
    ++ BitVec.ofBool b1 ++ BitVec.ofBool b0

/-- `WIRE` grouped into bytes, eight bits at a time (`10_state.md` R31); bits of an unfinished byte are left out. -/
def bytesOfBits : List Bool → List Byte
  | b7 :: b6 :: b5 :: b4 :: b3 :: b2 :: b1 :: b0 :: rest =>
    byteOfBits b7 b6 b5 b4 b3 b2 b1 b0 :: bytesOfBits rest
  | _ => []

/-- A pixel with the brightness of its packet, as it is sent and as a receiver reads it back. -/
structure Packet where
  /-- The colour. -/
  pixel : Pixel
  /-- The brightness, bits 4 to 0 of the control byte. -/
  bright5 : BitVec 5
  deriving DecidableEq, Repr

/-- One packet read back from its four bytes in the order of the wire (`30_encoding.md` R68). -/
def receivePacket (c b g r : Byte) : Packet :=
  { pixel := { red := r, green := g, blue := b }, bright5 := c.extractLsb' 0 5 }

/-- `n` packets from the head of a stream. -/
def receiveCount : Nat → List Byte → Option (List Packet)
  | 0, _ => some []
  | n + 1, c :: b :: g :: r :: rest => (receiveCount n rest).map (receivePacket c b g r :: ·)
  | _ + 1, _ => none

/-- The decoder that knows the number of pixels: skip the start frame, then read by position (`30_encoding.md`
R68). -/
def decodeStreamOf (n : Nat) (bytes : List Byte) : Option (List Packet) := receiveCount n (bytes.drop 4)

/-- Packets while a group of four begins with a byte of at least 0xE0. -/
def receiveWhile : List Byte → List Packet
  | c :: b :: g :: r :: rest => if 0xE0#8 ≤ c then receivePacket c b g r :: receiveWhile rest else []
  | _ => []

/-- The decoder that does not know the number of pixels (`30_encoding.md` R68). -/
def decodeStream (bytes : List Byte) : List Packet := receiveWhile (bytes.drop 4)

/-- The four bytes of a packet in the order of the wire (`30_encoding.md` R62). -/
def Packet.bytes (p : Packet) : List Byte := [controlByte p.bright5, p.pixel.blue, p.pixel.green, p.pixel.red]

/-- The byte stream of a complete transmission: start frame, packets, padding (`30_encoding.md` R64). -/
def streamBytes (packets : List Packet) : List Byte :=
  List.replicate 4 0 ++ packets.flatMap Packet.bytes ++ List.replicate (padBytes packets.length) 0

/-- The byte stream of a WRITE: one brightness for all its pixels (`30_encoding.md` R64, `44_write.md` R133). -/
def transmissionBytes (v : BitVec 5) (pixels : List Pixel) : List Byte :=
  streamBytes (pixels.map (fun p => { pixel := p, bright5 := v }))

end Sys2Proof.Machine
end

