-- ==== Sys2Proof/Machine/Transaction.lean ====
section
/-! DEFINITION. The order of commands the host owes, which the block does not check, and the packets a list of commands sends (70_reset_and_hazards.md R203, R204). -/

namespace Sys2Proof.Machine

/-- COLOR commands and then one END of as many pixels as were sent (`70_reset_and_hazards.md` R203, R204). -/
def colorsThenEnd (sent : Nat) : List Instr → Bool
  | .color .. :: rest => colorsThenEnd (sent + 1) rest
  | [.endFrame n] => n == sent
  | _ => false

/-- INIT any number of times, one START, some COLOR, one END of as many pixels (`70_reset_and_hazards.md` R203). -/
def frameByHand : List Instr → Bool
  | .init :: rest => frameByHand rest
  | .start :: rest => colorsThenEnd 0 rest
  | _ => false

/-- A well-formed transaction (`70_reset_and_hazards.md` R203): a frame the host expands itself, or one WRITE by
itself. -/
def wellFormedTransaction : List Instr → Bool
  | [.write _ _] => true
  | is => frameByHand is

/-- The packets one command sends when it is accepted now and runs undisturbed. -/
def State.packetsOf (s : State) : Instr → List Packet
  | .color r g b v =>
    [{ pixel := { red := r, green := g, blue := b }, bright5 := reduceBrightness s.cfg.brightReduce v }]
  | .write n v =>
    (List.range n).map (fun i => { pixel := s.pixelAt i, bright5 := reduceBrightness s.cfg.brightReduce v })
  | .init | .start | .endFrame _ | .reserved5 | .reserved6 | .reserved7 | .wireStartFrame | .wirePixel ..
  | .wireEndPad => []

end Sys2Proof.Machine
end

