-- ==== Sys2Proof/Safety.lean ====
section
/-! DEFINITION. What claims use: hosts that leave the block alone, and the invariants of the block (10_state.md R14, R24; 70_reset_and_hazards.md R195 to R205). -/

namespace Sys2Proof.Machine

/-- Inputs under which the bytes of a command go out undisturbed: no reset and no write to the pixel space
(`70_reset_and_hazards.md` R190, R202). Whether a word is presented does not matter to a busy block. -/
def HostInput.harmless (inp : HostInput) : Bool := !inp.rst && inp.pixWrites.isEmpty

/-- Inputs under which a whole command runs undisturbed: no GPIO failure either (`45_bit_transfer.md` R147). -/
def HostInput.calm (inp : HostInput) : Bool := inp.harmless && !inp.gpioCfgFail

/-- All coming inputs are harmless. -/
def State.uninterrupted (s : State) : Bool := s.script.all HostInput.harmless

/-- All coming inputs are calm. -/
def State.undisturbed (s : State) : Bool := s.script.all HostInput.calm

/-- Idle lines: both outputs, both low (`00_scope.md`, glossary). -/
def Pins.idle : Pins := { datOe := true, datLvl := false, clkOe := true, clkLvl := false }

/-- The bits of a 32-bit wire frame in the order of the wire, bit 31 first (`00_scope.md` R8). -/
def wireBits (w : WireWord) : List Bool := (List.range 32).map (fun k => w.getLsbD (31 - k))

/-- Micro-steps have used up the first `n` inputs of the script. -/
def State.dropInputs (n : Nat) (s : State) : State := { s with script := s.script.drop n }

/-- The latches an event list leaves, from reset. -/
def Pins.replay (es : List PinEvent) : Pins := es.foldl (fun p e => p.after e) .reset

/-- The bits an event list puts on `WIRE`, from given latches. -/
def sampledFrom : Pins → List PinEvent → List Bool
  | _, [] => []
  | p, e :: es => sampledBits e p ++ sampledFrom (p.after e) es

/-- The pixel space is in its canonical form and inside its address space (`20_memory.md` R41). -/
structure State.PixInv (s : State) : Prop where
  /-- The canonical form. -/
  canonical : Memory.wf s.pix = true
  /-- Every listed address exists. -/
  inSpace : s.pix.all (fun c => Memory.hasAddress s.cfg c.1) = true

/-- The clock line and the position (`10_state.md` R14, R24; `45_bit_transfer.md` R152). -/
structure State.PositionInv (s : State) : Prop where
  /-- `SUB` = 3 is never reached. -/
  subLegal : s.sub ≠ 3
  /-- `CLK.lvl` = 1 exactly between the second and the third pin event of a bit. -/
  clockHigh : s.pins.clkLvl = true ↔ s.sub = 2
  /-- While `BUSY` = 0 all three counters are 0. -/
  idleAtZero : s.busy = false → s.idx = 0 ∧ s.bit = 0 ∧ s.sub = 0
  /-- While `BUSY` = 1 the position names an item of the expansion. -/
  busyInside : s.busy = true → s.idx < s.len
  /-- `BIT` and `SUB` are 0 at a `CfgItem`. -/
  cfgAtZero : s.busy = true → s.pending = .cfgItem → s.bit = 0 ∧ s.sub = 0

/-- The widths of the latches that are natural numbers (`10_state.md` R22, R24, R25). -/
structure State.WidthInv (s : State) : Prop where
  /-- `COUNT` has `COUNT_W` bits. -/
  count : s.count < 2 ^ s.cfg.countW
  /-- `NPAD` has `COUNT_W - 3` bits. -/
  npad : s.npad < 2 ^ (s.cfg.countW - 3)
  /-- `IDX` has `COUNT_W + 3` bits. -/
  idx : s.idx < 2 ^ (s.cfg.countW + 3)

/-- The fault (`60_exceptions.md` R162, R167). -/
structure State.FaultInv (s : State) : Prop where
  /-- The fault is raised inside a command and leaves `BUSY` = 1. -/
  busy : s.fault = true → s.busy = true
  /-- It is taken at a `CfgItem`. -/
  atCfgItem : s.fault = true → s.pending = .cfgItem
  /-- It is raised only where the platform can report it. -/
  canFail : s.fault = true → s.cfg.gpioCfgCanFail = true

/-- The latches and `WIRE` are what the events of `EVT` make of the reset latches (`10_state.md` R11, R31). -/
structure State.LogInv (s : State) : Prop where
  /-- The latches follow from the events. -/
  pins : s.pins = Pins.replay s.evt
  /-- The sampled bits follow from the events. -/
  wire : s.wire = sampledFrom .reset s.evt

/-- Everything that holds in every state a run reaches from reset. -/
structure State.Inv (s : State) : Prop where
  /-- The pixel space. -/
  pix : s.PixInv
  /-- The position. -/
  position : s.PositionInv
  /-- The widths. -/
  widths : s.WidthInv
  /-- The fault. -/
  faults : s.FaultInv
  /-- The logs. -/
  logs : s.LogInv

end Sys2Proof.Machine
end

