-- ==== Sys2Proof/Certificates/Slice0/Obligations.lean ====
section
/-! DEFINITION. The statements for the provers, each with the rule of spec/ it formalises. -/

open Sys2Proof Sys2Proof.Machine

/-! ### Outputs -/

/-- R19, R12, R34: the four bits of `STATUS`, the pads of the two lines, and `cmd_ready`, from the latches. -/
def Obligations.TheOutputsFollowTheLatches : Prop :=
  ∀ s : State,
    s.status.getLsbD 0 = s.busy ∧ s.status.getLsbD 1 = s.tx ∧ s.status.getLsbD 2 = s.fault
      ∧ s.status.getLsbD 3 = (s.pins.datOe && s.pins.clkOe)
      ∧ (s.padDat = .undriven ↔ s.pins.datOe = false) ∧ (s.padClk = .undriven ↔ s.pins.clkOe = false)
      ∧ (s.pins.datOe = true → (s.padDat = .high ↔ s.pins.datLvl = true))
      ∧ (s.pins.clkOe = true → (s.padClk = .high ↔ s.pins.clkLvl = true))
      ∧ (s.cmdReady = true ↔ s.busy = false ∧ s.fault = false)

/-! ### Reset, invariants, progress -/

/-- R33: the values the spec gives for reset. The operand latches, which R33 leaves unspecified, are not mentioned. -/
def Obligations.ResetLeavesTheValuesOfTheSpec : Prop :=
  State.reset.pins = { datOe := false, datLvl := false, clkOe := false, clkLvl := false }
    ∧ State.reset.busy = false ∧ State.reset.tx = false ∧ State.reset.fault = false
    ∧ State.reset.idx = 0 ∧ State.reset.bit = 0 ∧ State.reset.sub = 0
    ∧ State.reset.configured = false ∧ State.reset.status = 0b0000#4
    ∧ State.reset.evt = [] ∧ State.reset.wire = []

/-- The invariant of the model holds at reset. -/
def Obligations.InvariantHoldsAtReset : Prop := State.reset.Inv

/-- Every step keeps the invariant: the clock rule of R14, the position of R24 and R25, the widths of R22 and R24, the
fault of R160 to R167, the logs of R30 and R31, the canonical form of the pixel space. -/
def Obligations.EveryStepKeepsTheInvariant : Prop :=
  ∀ s t : State, s.Inv → step s = .next t → t.Inv

/-- R155, R156, R162 with log entry 13 (DEDUCED: the fault is a next state with `FAULT` = 1, and so is every step after
it): with inputs that name existing bytes, the step from a state that meets the invariant always answers a next state. -/
def Obligations.TheBlockAlwaysTakesItsNextStep : Prop :=
  ∀ s : State, s.Inv → s.input.writesLegal s.cfg = true → ∃ t : State, step s = .next t

/-- R190, R168: reset wins over everything, whatever the state and the other inputs are; the latches the spec gives a
value take it, no event is logged, no command is taken, and the parameters and the host's queue are as before. -/
def Obligations.ResetWinsOverEverything : Prop :=
  ∀ s : State, s.input.rst = true → s.input.writesLegal s.cfg = true →
    ∃ t : State, step s = .next t
      ∧ t.pins = { datOe := false, datLvl := false, clkOe := false, clkLvl := false }
      ∧ t.busy = false ∧ t.tx = false ∧ t.fault = false ∧ t.idx = 0 ∧ t.bit = 0 ∧ t.sub = 0
      ∧ t.evt = [] ∧ t.wire = [] ∧ t.cmds = s.cmds ∧ t.cfg = s.cfg
      ∧ t.pix = Memory.writeAll s.pix s.input.pixWrites

/-- R191 with log entry 3 (the model's choice of 0 for the unspecified operand latches): a later reset leaves the same
block as power-on. -/
def Obligations.LaterResetGivesThePowerOnState : Prop :=
  ∀ s : State, s.input.rst = true → s.input.pixWrites = [] →
    step s = .next { State.reset with
      cfg := s.cfg, pix := s.pix, draws := s.draws, cmds := s.cmds, script := s.script.tail }

/-! ### Decoding and encoding -/

/-- R81: decoding an encoded well-formed instruction gives it back, commands and wire formats alike. -/
def Obligations.DecodeOfEncodeIsTheInstruction : Prop :=
  ∀ (cfg : Config) (i : Instr), i.wellFormed cfg = true → decode cfg (encode i) = .ok i

/-- R81, R74, R75: every 35-bit word decodes to a well-formed command of the port; encoding that command gives the
word back but for the argument bits its operation ignores. -/
def Obligations.EveryCommandWordIsACommand : Prop :=
  ∀ (cfg : Config) (w : CommandWord),
    (decodeCommand cfg w).wellFormed cfg = true ∧ (decodeCommand cfg w).isCommand = true
      ∧ ∃ c : CommandWord, encode (decodeCommand cfg w) = .cmd c ∧ cmdOp c = cmdOp w
          ∧ decodeCommand cfg c = decodeCommand cfg w ∧ (cmdOp w = 2 → c = w)

/-- R76: two words that differ only in argument bits their operation ignores are the same command: all 32 for INIT,
START and the reserved codes, the bits from `COUNT_W` up for END, those below bit 24 for WRITE. -/
def Obligations.IgnoredArgumentBitsChangeNothing : Prop :=
  ∀ (cfg : Config) (w w' : CommandWord), cmdOp w = cmdOp w' →
    ((cmdOp w = 0 ∨ cmdOp w = 1 ∨ 5 ≤ (cmdOp w).toNat) → decodeCommand cfg w = decodeCommand cfg w')
      ∧ (cmdOp w = 3 → (∀ k < cfg.countW, (cmdArg w).getLsbD k = (cmdArg w').getLsbD k) →
          decodeCommand cfg w = decodeCommand cfg w')
      ∧ (cmdOp w = 4 → (∀ k < cfg.countW, (cmdArg w).getLsbD k = (cmdArg w').getLsbD k) →
          (cmdArg w).extractLsb' 24 8 = (cmdArg w').extractLsb' 24 8 →
          decodeCommand cfg w = decodeCommand cfg w')

/-- R81: the encoding function, for counts of 16 bits, and the decoding of every word by its fields. -/
def Obligations.EncodingIsTheFormulaOfTheSpec : Prop :=
  ((encode .init).toNat = 0x000000000 ∧ (encode .start).toNat = 0x100000000
    ∧ (∀ r g b v : Byte, (encode (.color r g b v)).toNat
        = (2 <<< 32) ||| (v.toNat <<< 24) ||| (r.toNat <<< 16) ||| (g.toNat <<< 8) ||| b.toNat)
    ∧ (∀ n < 2 ^ 16, (encode (.endFrame n)).toNat = (3 <<< 32) ||| n)
    ∧ (∀ n < 2 ^ 16, ∀ v : Byte, (encode (.write n v)).toNat = (4 <<< 32) ||| (v.toNat <<< 24) ||| n))
    ∧ ∀ (cfg : Config) (w : CommandWord),
      (w.toNat / 2 ^ 32 = 0 → decodeCommand cfg w = .init)
        ∧ (w.toNat / 2 ^ 32 = 1 → decodeCommand cfg w = .start)
        ∧ (w.toNat / 2 ^ 32 = 2 → decodeCommand cfg w
            = .color (w.extractLsb' 16 8) (w.extractLsb' 8 8) (w.extractLsb' 0 8) (w.extractLsb' 24 8))
        ∧ (w.toNat / 2 ^ 32 = 3 → decodeCommand cfg w = .endFrame (w.toNat % 2 ^ cfg.countW))
        ∧ (w.toNat / 2 ^ 32 = 4 → decodeCommand cfg w = .write (w.toNat % 2 ^ cfg.countW) (w.extractLsb' 24 8))
        ∧ (w.toNat / 2 ^ 32 = 5 → decodeCommand cfg w = .reserved5)
        ∧ (w.toNat / 2 ^ 32 = 6 → decodeCommand cfg w = .reserved6)
        ∧ (w.toNat / 2 ^ 32 = 7 → decodeCommand cfg w = .reserved7)

/-- Words of `95_test_vectors.md` V-ENC and of `opcode_table.json`, decoded at the default parameters. -/
def Obligations.WordsOfTheSpecDecode : Prop :=
  decodeTableWord 35 0x000000000 = some .init
    ∧ decodeTableWord 35 0x1FFFFFFFF = some .start
    ∧ decodeTableWord 35 0x21F123456 = some (.color 0x12 0x34 0x56 31)
    ∧ decodeTableWord 35 0x3ABCD0011 = some (.endFrame 17)
    ∧ decodeTableWord 35 0x401FF0012 = some (.write 18 1)
    ∧ decodeTableWord 35 0x5DEADBEEF = some .reserved5
    ∧ decodeTableWord 35 0x7FFFFFFFF = some .reserved7
    ∧ decodeTableWord 32 0x00000000 = some .wireStartFrame
    ∧ decodeTableWord 32 0xFF563412 = some (.wirePixel 31 0x56 0x34 0x12)
    ∧ decodeTableWord 8 0x00 = some .wireEndPad

/-- R62, R65: the fields of the pixel packet, its four bytes in the order of the wire, and its control byte. -/
def Obligations.PixelPacketLayout : Prop :=
  ∀ (v : BitVec 5) (b g r : Byte),
    (pixelWord v b g r).extractLsb' 29 3 = 0b111#3 ∧ (pixelWord v b g r).extractLsb' 24 5 = v
      ∧ (pixelWord v b g r).extractLsb' 16 8 = b ∧ (pixelWord v b g r).extractLsb' 8 8 = g
      ∧ (pixelWord v b g r).extractLsb' 0 8 = r
      ∧ (List.range 4).map (frameByte (.wirePixel v b g r)) = [controlByte v, b, g, r]
      ∧ controlByte v = 0xE0#8 ||| v.setWidth 8 ∧ 0xE0 ≤ (controlByte v).toNat

/-- R66, R111: brightness 0 to 31 is unchanged under both reductions and gives the control byte `0xE0 | br8`; above 31
`saturate` gives 31 and `truncate` the low five bits; the default is `saturate`. -/
def Obligations.BrightnessReduction : Prop :=
  Config.default.brightReduce = .saturate
    ∧ ∀ br8 : Byte,
      (br8.toNat ≤ 31 → ∀ m : BrightReduce,
          (reduceBrightness m br8).toNat = br8.toNat ∧ controlByte (reduceBrightness m br8) = 0xE0#8 ||| br8)
        ∧ (31 < br8.toNat → reduceBrightness .saturate br8 = 31)
        ∧ reduceBrightness .truncate br8 = br8.extractLsb' 0 5

/-- R122: the number of padding bytes on natural numbers, its equality with `ceil((count - 1) / 16)`, the edges between
its values, and the spec's table. R123: the clock edges it gives. -/
def Obligations.PaddingLength : Prop :=
  (∀ n : Nat, padBytes n = (n + 14) / 16
    ∧ (1 ≤ n → padBytes n = (n - 1 + 15) / 16)
    ∧ (padBytes n = 0 ↔ n ≤ 1)
    ∧ (∀ k, 1 ≤ k → (padBytes n = k ↔ 16 * k - 14 ≤ n ∧ n ≤ 16 * k + 1))
    ∧ n - 1 ≤ 16 * padBytes n ∧ 16 * padBytes n < n - 1 + 16)
    ∧ [0, 1, 2, 16, 17, 18, 33, 34, 49, 50, 65, 66, 81, 82, 65535].map padBytes
        = [0, 0, 1, 1, 1, 2, 2, 3, 3, 4, 4, 5, 5, 6, 4096]

/-- R146, R132: `Item(IDX)` is element `IDX` of the operation's list of items, read from the operand latches, and `Len`
is the length of that list. -/
def Obligations.ItemIsTheElementOfTheExpansion : Prop :=
  ∀ s : State,
    (s.op = 0 → s.item = ([.cfgItem] : List Item)[s.idx]? ∧ s.len = 1)
      ∧ (s.op = 1 → s.item = ([.cfgItem, .byte 0, .byte 0, .byte 0, .byte 0] : List Item)[s.idx]? ∧ s.len = 5)
      ∧ (s.op = 2 → s.item
          = ([.byte (0b111#3 ++ s.bright5), .byte s.blue, .byte s.green, .byte s.red] : List Item)[s.idx]? ∧ s.len = 4)
      ∧ (s.op = 3 → s.item = (List.replicate s.npad (.byte 0) ++ [.cfgItem] : List Item)[s.idx]? ∧ s.len = s.npad + 1)
      ∧ (s.op = 4 → s.item
          = ([.cfgItem, .byte 0, .byte 0, .byte 0, .byte 0]
              ++ (List.replicate s.count
                [.byte (0b111#3 ++ s.bright5), .byte s.blue, .byte s.green, .byte s.red]).flatten
              ++ List.replicate s.npad (.byte 0) ++ [.cfgItem] : List Item)[s.idx]?
          ∧ s.len = 5 + 4 * s.count + s.npad + 1)
      ∧ (5 ≤ s.op.toNat → s.item = none ∧ s.len = 0)

/-! ### Acceptance -/

/-- R149: the acceptance of a presented word, bit by bit, with all it writes and nothing else: a reserved word changes
no latch. -/
def Obligations.AcceptanceOfAPresentedWord : Prop :=
  ∀ (s u : State) (w : CommandWord) (rest : List CommandWord),
    s.cmdReady = true → s.cmds = w :: rest → s.input.rst = false → s.input.withhold = false →
    s.input.pixWrites = [] → u = { s with cmds := rest, script := s.script.tail } →
    (5 ≤ w.toNat / 2 ^ 32 → step s = .next u)
      ∧ (w.toNat / 2 ^ 32 = 0 → step s = .next { u with op := 0, idx := 0, bit := 0, sub := 0, busy := true })
      ∧ (w.toNat / 2 ^ 32 = 1 → step s = .next { u with op := 1, idx := 0, bit := 0, sub := 0, busy := true })
      ∧ (w.toNat / 2 ^ 32 = 2 → step s = .next { u with
          op := 2, bright5 := reduceBrightness s.cfg.brightReduce (w.extractLsb' 24 8), red := w.extractLsb' 16 8,
          green := w.extractLsb' 8 8, blue := w.extractLsb' 0 8, idx := 0, bit := 0, sub := 0, busy := true })
      ∧ (w.toNat / 2 ^ 32 = 3 → step s = .next { u with
          op := 3, count := w.toNat % 2 ^ s.cfg.countW, npad := (w.toNat % 2 ^ s.cfg.countW + 14) / 16,
          idx := 0, bit := 0, sub := 0, busy := true })
      ∧ (w.toNat / 2 ^ 32 = 4 → step s = .next { u with
          op := 4, count := w.toNat % 2 ^ s.cfg.countW, npad := (w.toNat % 2 ^ s.cfg.countW + 14) / 16,
          bright5 := reduceBrightness s.cfg.brightReduce (w.extractLsb' 24 8),
          idx := 0, bit := 0, sub := 0, busy := true })

/-- R149: what the acceptance of each operation writes in a ready block, and that it writes nothing else. -/
def Obligations.AcceptanceWritesTheLatchesAndNothingElse : Prop :=
  ∀ s : State, s.cmdReady = true →
    exec .init s = .next { s with op := 0, idx := 0, bit := 0, sub := 0, busy := true }
      ∧ exec .start s = .next { s with op := 1, idx := 0, bit := 0, sub := 0, busy := true }
      ∧ (∀ r g b v : Byte, exec (.color r g b v) s = .next { s with
          op := 2, bright5 := reduceBrightness s.cfg.brightReduce v, red := r, green := g, blue := b,
          idx := 0, bit := 0, sub := 0, busy := true })
      ∧ (∀ n : Nat, exec (.endFrame n) s = .next { s with
          op := 3, count := n, npad := (n + 14) / 16, idx := 0, bit := 0, sub := 0, busy := true })
      ∧ (∀ (n : Nat) (v : Byte), exec (.write n v) s = .next { s with
          op := 4, count := n, npad := (n + 14) / 16, bright5 := reduceBrightness s.cfg.brightReduce v,
          idx := 0, bit := 0, sub := 0, busy := true })

/-- R69: a ready block takes the word on its port; a word presented while `cmd_ready` = 0 is not taken and has no
effect: it waits, and the step is the same whatever words wait. -/
def Obligations.AWordPresentedToABlockThatIsNotReadyWaits : Prop :=
  ∀ s : State,
    (s.cmdReady = true → s.input.rst = false → s.input.withhold = false →
        ∀ t : State, step s = .next t → t.cmds = s.cmds.tail)
      ∧ (s.cmdReady = false →
        (∀ i : Instr, i.isCommand = true → exec i s = .next s)
          ∧ ∀ (t : State) (q : List CommandWord), step s = .next t →
            t.cmds = s.cmds ∧ step { s with cmds := q } = .next { t with cmds := q })

/-- R77 with log entry 9 (the model takes the no-op that R77 gives and U2 allows): a reserved word changes nothing in a
ready block, and is taken. -/
def Obligations.ReservedWordsAreTakenAndIgnored : Prop :=
  ∀ s : State, s.cmdReady = true →
    exec .reserved5 s = .next s ∧ exec .reserved6 s = .next s ∧ exec .reserved7 s = .next s
      ∧ ∀ (w : CommandWord) (rest : List CommandWord), s.cmds = w :: rest → 5 ≤ (cmdOp w).toNat →
        s.input.rst = false → s.input.withhold = false → s.input.pixWrites = [] →
        step s = .next { s with cmds := rest, script := s.script.tail }

/-- R149, R168: a ready block with a word on its port runs that word's instruction. Around it the step takes the word
and the inputs of the micro-step, and lets the host's writes land before or after. -/
def Obligations.AStepRunsTheCommandOnThePort : Prop :=
  ∀ (s : State) (w : CommandWord) (rest : List CommandWord),
    s.cmdReady = true → s.cmds = w :: rest → s.input.rst = false → s.input.withhold = false →
    s.input.writesLegal s.cfg = true →
    step s = finishMicroStep s.input
      (exec (decodeCommand s.cfg w) (s.beginMicroStep s.input).takeCommand)

/-- R150, R152: a busy block whose position is in a wire format runs that format's instruction, after the pixel fetch
if one is due. -/
def Obligations.AStepRunsTheWireFormatInFlight : Prop :=
  ∀ (s : State) (f : Instr),
    s.busy = true → s.fault = false → s.input.rst = false → s.input.writesLegal s.cfg = true →
    (s.beginMicroStep s.input).fetchIfDue.pending = .frame f →
    step s = finishMicroStep s.input (exec f (s.beginMicroStep s.input).fetchIfDue)

/-! ### Pin events -/

/-- R152, R143, R140, R141: the three pin events of a bit, for each wire format, by `SUB`. The bit sent is bit
`7 - BIT` of the current byte; the position moves to the next bit, and after the eighth to the next item. -/
def Obligations.ThePinEventsOfABit : Prop :=
  ∀ (s : State) (f : Instr), f.isCommand = false → s.busy = true → s.fault = false →
    (s.sub = 0 → exec f s = .next { s with
        pins := { s.pins with datLvl := (frameByte f s.byteIndex).getLsbD (7 - s.bit.toNat) }, tx := true,
        evt := s.evt ++ [.setD ((frameByte f s.byteIndex).getLsbD (7 - s.bit.toNat))], sub := 1 })
      ∧ (s.sub = 1 → exec f s = .next { s with
        pins := { s.pins with clkLvl := true }, evt := s.evt ++ [.setC true],
        wire := s.wire ++ (if s.pins.datOe && s.pins.clkOe then [s.pins.datLvl] else []), sub := 2 })
      ∧ (s.sub = 2 → s.bit ≠ 7 → exec f s = .next { s with
        pins := { s.pins with clkLvl := false }, evt := s.evt ++ [.setC false], sub := 0, bit := s.bit + 1 })
      ∧ (s.sub = 2 → s.bit = 7 → s.idx + 1 ≠ s.len → exec f s = .next { s with
        pins := { s.pins with clkLvl := false }, evt := s.evt ++ [.setC false], sub := 0, bit := 0,
        idx := s.idx + 1 })
      ∧ (s.sub = 2 → s.bit = 7 → s.idx + 1 = s.len → exec f s = .next { s with
        pins := { s.pins with clkLvl := false }, evt := s.evt ++ [.setC false], sub := 0, bit := 0,
        idx := 0, busy := false })

/-- R151, R142, R162: at a `CfgItem` the fault writes `FAULT` and nothing else; otherwise `Cfg` writes all four pin
latches and `TX`, and the item is finished. `BIT` and `SUB` are 0 before and after. -/
def Obligations.TheStepOfACfgItem : Prop :=
  ∀ s : State, s.busy = true → s.fault = false → s.input.rst = false → s.input.pixWrites = [] →
    s.pending = .cfgItem →
    ((s.cfg.gpioCfgCanFail = true ∧ s.input.gpioCfgFail = true) →
        step s = .next { s with fault := true, script := s.script.tail })
      ∧ (¬ (s.cfg.gpioCfgCanFail = true ∧ s.input.gpioCfgFail = true) →
        step s = .next { s with
          pins := { datOe := true, datLvl := false, clkOe := true, clkLvl := false }, tx := false,
          evt := s.evt ++ [.cfg], idx := if s.idx + 1 = s.len then 0 else s.idx + 1,
          busy := decide (s.idx + 1 ≠ s.len), script := s.script.tail })
      ∧ (s.Inv → s.bit = 0 ∧ s.sub = 0)

/-- R11, R16, R24, R30, R31: a step without reset either changes no latch, no `TX` and no log, or performs one pin
event, the one the position names, and logs it. -/
def Obligations.OnePinEventAStep : Prop :=
  ∀ s t : State, s.input.rst = false → step s = .next t →
    (t.evt = s.evt ∧ t.pins = s.pins ∧ t.tx = s.tx ∧ t.wire = s.wire)
      ∨ ∃ e : PinEvent, (s.beginMicroStep s.input).nextEvent = some e ∧ s.busy = true ∧ s.fault = false
          ∧ t.evt = s.evt ++ [e] ∧ t.pins = s.pins.after e ∧ t.tx = txAfter e s.tx
          ∧ t.wire = s.wire ++ sampledBits e s.pins

/-- R18, R11: `CONFIGURED` is 0 after a reset, becomes 1 at a `Cfg` and stays 1 until the next reset; once a line is an
output it stays one until reset. -/
def Obligations.LinesAreConfiguredByCfgUntilReset : Prop :=
  ∀ s t : State, step s = .next t →
    (s.input.rst = true → t.configured = false)
      ∧ (s.input.rst = false →
        (s.pins.datOe = true → t.pins.datOe = true) ∧ (s.pins.clkOe = true → t.pins.clkOe = true)
          ∧ (t.configured = true ↔ s.configured = true ∨ t.evt = s.evt ++ [.cfg]))

/-- R14: the clock rises only at a `SetC(1)`, which is always a change from low to high; a `Cfg` never raises or lowers
it, and an idle block's clock is low. -/
def Obligations.TheClockRisesOnlyInAPulse : Prop :=
  ∀ s t : State, s.Inv → s.input.rst = false → step s = .next t →
    (s.pins.clkLvl = false → t.pins.clkLvl = true → t.evt = s.evt ++ [.setC true])
      ∧ (t.evt = s.evt ++ [.setC true] → s.pins.clkLvl = false ∧ t.pins.clkLvl = true)
      ∧ (t.evt = s.evt ++ [.cfg] → s.pins.clkLvl = false ∧ t.pins.clkLvl = false)
      ∧ (s.busy = false → s.pins.clkLvl = false)

/-- R25, R154: a pin-event step moves the position strictly forward in the order of `IDX`, `BIT`, `SUB`, or ends the
command with the position at 0. -/
def Obligations.ThePositionMovesForward : Prop :=
  ∀ s t : State, s.Inv → s.busy = true → s.fault = false → s.input.rst = false → step s = .next t →
    t.fault = true
      ∨ (t.busy = false ∧ t.idx = 0 ∧ t.bit = 0 ∧ t.sub = 0)
      ∨ (t.busy = true ∧ 24 * s.idx + 3 * s.bit.toNat + s.sub.toNat < 24 * t.idx + 3 * t.bit.toNat + t.sub.toNat)

/-- R154: no command loops or hangs: left undisturbed, a busy block completes, from any position. -/
def Obligations.ABusyBlockCompletes : Prop :=
  ∀ s : State, s.Inv → s.busy = true → s.fault = false → s.undisturbed = true →
    ∃ (k : Nat) (t : State), k ≤ 24 * (s.len - s.idx) ∧ run k s = .next t ∧ t.busy = false ∧ t.fault = false

/-! ### The fault, and steps that change nothing -/

/-- R162, R163: the step right after the one that raises the fault. The block is not ready; without reset the step changes
nothing of the block; with reset `FAULT`, `BUSY` and `IDX` are 0 and the block is ready. -/
def Obligations.TheStepAfterTheFaultChangesNothingWithoutReset : Prop :=
  ∀ s t u : State, step s = .next t → s.fault = false → t.fault = true → step t = .next u →
    t.cmdReady = false
      ∧ (t.input.rst = false → u = { t with pix := u.pix, script := t.script.tail })
      ∧ (t.input.rst = true → u.fault = false ∧ u.busy = false ∧ u.idx = 0 ∧ u.cmdReady = true)

/-- R17: `FAULT` rises only where `GpioConfigFault` is raised (R160, R167: at a `CfgItem` of a busy block, with
`gpio_cfg_fail` = 1 on a platform that can fail), falls only by reset, and while it is 1 no step is made and no word is
taken. -/
def Obligations.TheFaultRisesOnlyAtACfgItemAndFallsOnlyByReset : Prop :=
  ∀ s t : State, step s = .next t →
    (s.fault = false → t.fault = true →
        s.busy = true ∧ s.pending = .cfgItem ∧ s.input.gpioCfgFail = true ∧ s.cfg.gpioCfgCanFail = true)
      ∧ (s.fault = true → t.fault = false → s.input.rst = true)
      ∧ (s.fault = true → s.input.rst = false → t = { s with pix := t.pix, script := s.script.tail })

/-- R155: a faulted block, and an idle one with no word on its port, change nothing; only the host's side goes on. -/
def Obligations.FaultedAndIdleBlocksStandStill : Prop :=
  ∀ s : State, s.input.rst = false → s.input.writesLegal s.cfg = true →
    (s.fault = true ∨ (s.busy = false ∧ s.presented s.input = none)) →
    step s = .next { s with pix := Memory.writeAll s.pix s.input.pixWrites, script := s.script.tail }

/-- R137, R160: a fault at the first item of INIT, START or WRITE: nothing has been sent, the lines are as before the
command. -/
def Obligations.AFaultAtTheFirstItemSendsNothing : Prop :=
  ∀ (s : State) (i : Instr), s.cmdReady = true → s.cfg.gpioCfgCanFail = true →
    (i = .init ∨ i = .start ∨ ∃ n v, i = .write n v) →
    s.input.rst = false → s.input.pixWrites = [] → s.input.gpioCfgFail = true →
    ∃ t u : State, exec i s = .next t ∧ step t = .next u ∧ u = { t with fault := true, script := s.script.tail }
      ∧ u.pins = s.pins ∧ u.tx = s.tx ∧ u.evt = s.evt ∧ u.wire = s.wire ∧ u.busy = true ∧ u.idx = 0

/-- R126, V-FAULT: a fault at the last item of END: all padding bytes have been sent, `Cfg` is not performed, `FAULT`
and `BUSY` are 1. -/
def Obligations.AFaultAtTheEndComesAfterThePadding : Prop :=
  ∀ (s : State) (n : Nat) (before : List HostInput) (inp : HostInput) (later : List HostInput),
    s.cmdReady = true → s.cfg.gpioCfgCanFail = true → s.uninterrupted = true → s.script = before ++ inp :: later →
    before.length = 24 * padBytes n → inp.gpioCfgFail = true →
    ∃ t u : State, exec (.endFrame n) s = .next t ∧ run (24 * padBytes n + 1) t = .next u
      ∧ u = { s with
          op := 3, count := n, npad := padBytes n, idx := padBytes n, bit := 0, sub := 0, busy := true, fault := true,
          tx := s.tx || decide (0 < padBytes n),
          pins := if padBytes n = 0 then s.pins else { s.pins with datLvl := false, clkLvl := false },
          evt := s.evt ++ (List.replicate (8 * padBytes n) (xferBit false)).flatten,
          wire := s.wire ++ (if s.configured then List.replicate (8 * padBytes n) false else []), script := later }

/-- R137, R162: a fault at the last item of WRITE, its first `CfgItem` performed: the whole frame and its padding have been
sent, the last `Cfg` is not performed, and the data line is at its last level, that of the last bit of red when there is
one pixel and so no padding, else low. Log entry 7 (DESIGN CHOICE): a byte of a pixel that the host does not hold is a
free value. -/
def Obligations.AFaultAtTheEndOfAWriteComesAfterTheWholeFrame : Prop :=
  ∀ (s : State) (n : Nat) (v : Byte) (before : List HostInput) (inp : HostInput) (later : List HostInput)
      (bytes : List Byte),
    s.cmdReady = true → s.cfg.gpioCfgCanFail = true → s.uninterrupted = true → s.script = before ++ inp :: later →
    before.length = 1 + 24 * (4 + 4 * n + padBytes n) → s.input.gpioCfgFail = false → inp.gpioCfgFail = true →
    bytes = transmissionBytes (reduceBrightness s.cfg.brightReduce v) ((List.range n).map s.pixelAt) →
    ∃ t u : State, exec (.write n v) s = .next t ∧ run (2 + 24 * (4 + 4 * n + padBytes n)) t = .next u
      ∧ u = { s with
          op := 4, count := n, npad := padBytes n, bright5 := reduceBrightness s.cfg.brightReduce v,
          red := if n = 0 then s.red else (s.pixelAt (n - 1)).red,
          green := if n = 0 then s.green else (s.pixelAt (n - 1)).green,
          blue := if n = 0 then s.blue else (s.pixelAt (n - 1)).blue, draws := s.draws + n,
          idx := 5 + 4 * n + padBytes n, bit := 0, sub := 0, busy := true, fault := true, tx := true,
          pins := { datOe := true, datLvl := if n = 1 then (s.pixelAt 0).red.getLsbD 0 else false, clkOe := true,
                    clkLvl := false },
          evt := s.evt ++ .cfg :: bytes.flatMap xferByte, wire := s.wire ++ bytes.flatMap byteBits, script := later }
      ∧ u.status = 0b1111#4

/-- R156: when a run is over and what its result is. A run that is over stays over whatever the host's inputs are; a
faulted one has no result until reset; the result of a run is an idle block without fault whose host has no more
commands. -/
def Obligations.ARunThatIsOverStaysOverAndAFaultedOneHasNoResult : Prop :=
  ∀ s : State,
    (s.runStatus = .over ↔ s.busy = false ∧ s.fault = false ∧ s.cmds = [])
      ∧ (s.runStatus = .endedInFault ↔ s.fault = true)
      ∧ (s.runStatus = .over → ∀ (k : Nat) (t : State), run k s = .next t → t.runStatus = .over)
      ∧ (s.fault = true → s.script.all (fun inp => !inp.rst) = true → ∀ k : Nat, runResult k s = none)
      ∧ (s.busy = true → runResult 0 s = none)
      ∧ ∀ (k : Nat) (t : State),
        runResult k s = some t ↔ run k s = .next t ∧ t.busy = false ∧ t.fault = false ∧ t.cmds = []

/-! ### The operations, from acceptance to completion -/

/-- R90, R91: INIT is one `Cfg`: both lines outputs and low, `TX` = 0, nothing clocked out. -/
def Obligations.InitConfiguresTheLinesAndCompletes : Prop :=
  ∀ s : State, s.cmdReady = true → s.undisturbed = true →
    ∃ t u : State, exec .init s = .next t ∧ run 1 t = .next u
      ∧ u = { s with
          op := 0, idx := 0, bit := 0, sub := 0, pins := .idle, tx := false, evt := s.evt ++ [.cfg],
          script := s.script.drop 1 }
      ∧ u.padDat = .low ∧ u.padClk = .low ∧ u.status = 0b1000#4

/-- R100, R101, R103: START is one `Cfg` and 32 zero bits, 97 steps. -/
def Obligations.StartSendsTheStartFrameAndCompletes : Prop :=
  ∀ s : State, s.cmdReady = true → s.undisturbed = true →
    ∃ t u : State, exec .start s = .next t ∧ run 97 t = .next u
      ∧ u = { s with
          op := 1, idx := 0, bit := 0, sub := 0, pins := .idle, tx := true,
          evt := s.evt ++ .cfg :: (List.replicate 32 (xferBit false)).flatten,
          wire := s.wire ++ List.replicate 32 false, script := s.script.drop 97 }
      ∧ u.status = 0b1010#4

/-- R110, R111, R114: COLOR is the four bytes control, blue, green, red, 96 steps, whatever `TX`, `CONFIGURED` and
`gpio_cfg_fail` are; on lines that are not outputs the events are performed and nothing reaches `WIRE`. -/
def Obligations.ColorSendsThePacketAndCompletes : Prop :=
  ∀ (s : State) (r g b v c : Byte), s.cmdReady = true → s.uninterrupted = true →
    c = 0b111#3 ++ reduceBrightness s.cfg.brightReduce v →
    (v.toNat ≤ 31 → c = 0xE0#8 ||| v)
      ∧ ∃ t u : State, exec (.color r g b v) s = .next t ∧ run 96 t = .next u
        ∧ u = { s with
            op := 2, bright5 := reduceBrightness s.cfg.brightReduce v, red := r, green := g, blue := b,
            idx := 0, bit := 0, sub := 0, pins := { s.pins with datLvl := r.getLsbD 0, clkLvl := false }, tx := true,
            evt := s.evt ++ [c, b, g, r].flatMap xferByte,
            wire := s.wire ++ (if s.configured then [c, b, g, r].flatMap byteBits else []),
            script := s.script.drop 96 }

/-- R120, R121, R122, R124: END is `(count + 14) div 16` zero bytes and one `Cfg`; the lines end low. -/
def Obligations.EndSendsThePaddingAndCompletes : Prop :=
  ∀ (s : State) (n : Nat), s.cmdReady = true → s.undisturbed = true →
    ∃ t u : State, exec (.endFrame n) s = .next t ∧ run (24 * ((n + 14) / 16) + 1) t = .next u
      ∧ u = { s with
          op := 3, count := n, npad := (n + 14) / 16, idx := 0, bit := 0, sub := 0, pins := .idle, tx := false,
          evt := s.evt ++ ((List.replicate (8 * ((n + 14) / 16)) (xferBit false)).flatten ++ [.cfg]),
          wire := s.wire ++ (if s.configured then List.replicate (8 * ((n + 14) / 16)) false else []),
          script := s.script.drop (24 * ((n + 14) / 16) + 1) }
      ∧ u.status = 0b1000#4

/-- R130, R131, R133, R135: WRITE is the start frame, the packets of pixels 0 to `count - 1` with one brightness, the
padding, between two `Cfg`; its bytes are `4 + 4*N + (N + 14) div 16`. Log entry 7 (DESIGN CHOICE): a byte of a pixel that
the host does not hold is a free value. -/
def Obligations.WriteSendsTheWholeFrameAndCompletes : Prop :=
  ∀ (s : State) (n : Nat) (v : Byte), s.cmdReady = true → s.undisturbed = true →
    ∃ (t u : State) (bytes : List Byte), exec (.write n v) s = .next t
      ∧ run (2 + 24 * (4 + 4 * n + (n + 14) / 16)) t = .next u
      ∧ bytes = transmissionBytes (reduceBrightness s.cfg.brightReduce v) ((List.range n).map s.pixelAt)
      ∧ bytes.length = 4 + 4 * n + (n + 14) / 16
      ∧ u = { s with
          op := 4, count := n, npad := (n + 14) / 16, bright5 := reduceBrightness s.cfg.brightReduce v,
          red := if n = 0 then s.red else (s.pixelAt (n - 1)).red,
          green := if n = 0 then s.green else (s.pixelAt (n - 1)).green,
          blue := if n = 0 then s.blue else (s.pixelAt (n - 1)).blue, draws := s.draws + n,
          idx := 0, bit := 0, sub := 0, pins := .idle, tx := false,
          evt := s.evt ++ (.cfg :: bytes.flatMap xferByte ++ [.cfg]), wire := s.wire ++ bytes.flatMap byteBits,
          script := s.script.drop (2 + 24 * (4 + 4 * n + (n + 14) / 16)) }
      ∧ u.status = 0b1000#4

/-! ### The wire formats, from their first pin event to their last -/

/-- R61: the start frame in flight, in START or WRITE, goes out as 32 zero bits; the position moves past its four
bytes. -/
def Obligations.TheStartFrameGoesOut : Prop :=
  ∀ s : State, s.busy = true → s.fault = false → s.uninterrupted = true →
    s.pending = .frame .wireStartFrame → s.byteIndex = 0 → s.bit = 0 → s.sub = 0 →
    ∃ t : State, exec .wireStartFrame s = .next t
      ∧ run 95 t = .next { s with
          pins := { s.pins with datLvl := false, clkLvl := false }, tx := true,
          evt := s.evt ++ (wireBits 0x00000000#32).flatMap xferBit,
          wire := s.wire ++ (if s.configured then wireBits 0x00000000#32 else []),
          idx := if s.idx + 4 = s.len then 0 else s.idx + 4, busy := decide (s.idx + 4 ≠ s.len),
          script := s.script.drop 95 }

/-- R62, R8: a pixel packet in flight, in COLOR or (its pixel fetched) in WRITE, goes out bit 31 first: `111`,
brightness, blue, green, red; the position moves past its four bytes. -/
def Obligations.ThePixelPacketGoesOut : Prop :=
  ∀ (s : State) (v : BitVec 5) (b g r : Byte), s.busy = true → s.fault = false → s.uninterrupted = true →
    s.pending = .frame (.wirePixel v b g r) → s.byteIndex = 0 → s.bit = 0 → s.sub = 0 →
    ∃ t : State, exec (.wirePixel v b g r) s = .next t
      ∧ run 95 t = .next { s with
          pins := { s.pins with datLvl := r.getLsbD 0, clkLvl := false }, tx := true,
          evt := s.evt ++ (wireBits (0b111#3 ++ v ++ b ++ g ++ r)).flatMap xferBit,
          wire := s.wire ++ (if s.configured then wireBits (0b111#3 ++ v ++ b ++ g ++ r) else []),
          idx := if s.idx + 4 = s.len then 0 else s.idx + 4, busy := decide (s.idx + 4 ≠ s.len),
          script := s.script.drop 95 }

/-- R63: an end-frame byte in flight, in END or WRITE, goes out as 8 zero bits; a `CfgItem` always follows it. -/
def Obligations.TheEndFrameByteGoesOut : Prop :=
  ∀ s : State, s.busy = true → s.fault = false → s.uninterrupted = true →
    s.pending = .frame .wireEndPad → s.bit = 0 → s.sub = 0 →
    ∃ t : State, exec .wireEndPad s = .next t
      ∧ run 23 t = .next { s with
          pins := { s.pins with datLvl := false, clkLvl := false }, tx := true,
          evt := s.evt ++ (List.replicate 8 (xferBit false)).flatten,
          wire := s.wire ++ (if s.configured then List.replicate 8 false else []), idx := s.idx + 1,
          script := s.script.drop 23 }

/-! ### Where the interface stops -/

/-- Log entries 8 and 14 (the model's choice, for what R24, R41 and R152 exclude): the three faults of the interface and
when each comes, that a block which is not busy or is faulted runs no wire format, and that none of the faults of the
block's own state is met under the invariant. -/
def Obligations.WhereTheInterfaceStops : Prop :=
  ∀ s : State,
    (∀ f : Instr, f.isCommand = false → s.busy = true → s.fault = false → s.sub = 3 →
        exec f s = .fault .subOutOfRange)
      ∧ (∀ f : Instr, f.isCommand = false → (s.busy = false ∨ s.fault = true) → exec f s = .next s)
      ∧ (s.busy = true → s.fault = false → s.input.rst = false → s.input.writesLegal s.cfg = true → s.len ≤ s.idx →
        step s = .fault .noSuchItem)
      ∧ (s.input.writesLegal s.cfg = false → step s = .fault .hostWriteOutsidePixelSpace)
      ∧ (s.Inv → s.sub ≠ 3 ∧ (s.busy = true → s.idx < s.len))

/-! ### Whole commands and sequences of commands -/

/-- R147, R154: a command taken from the port and left undisturbed performs exactly the events of its expansion and is
complete, in the state of the command-level meaning, after the steps R154 gives, and not before. Log entry 9 (DESIGN
CHOICE): a reserved word, of which R147 does not speak, is taken and changes nothing. Log entry 7 (DESIGN CHOICE): a byte
of a pixel that the host does not hold is a free value. -/
def Obligations.MicroStepsAgreeWithTheCommandMeaning : Prop :=
  ∀ (s : State) (i : Instr) (w : CommandWord) (rest : List CommandWord),
    i.isCommand = true → i.wellFormed s.cfg = true → encode i = .cmd w → s.cmds = w :: rest →
    s.cmdReady = true → s.undisturbed = true → s.input.withhold = false →
    run (1 + microSteps i) s = .next ((s.commandMeaning i).takeCommand.dropInputs (1 + microSteps i))
      ∧ ∀ k, 1 ≤ k → k ≤ microSteps i → ∃ t : State, run k s = .next t ∧ t.busy = true

/-- R136: `WRITE N, br` and the host's own START, COLOR ..., END append the same events and the same bits and end with
the same latches and `TX`; the sequence takes N + 1 more acceptances. Log entry 7 (DESIGN CHOICE): a byte of a pixel that
the host does not hold is a free value, the same in both. -/
def Obligations.WriteEqualsTheHostsOwnExpansion : Prop :=
  ∀ (s : State) (n : Nat) (v : Byte), s.cmdReady = true → s.undisturbed = true →
    s.script.all (fun inp => !inp.withhold) = true → n < 2 ^ s.cfg.countW →
    ∃ t u : State,
      run (1 + microSteps (.write n v)) { s with cmds := [Instr.write n v].filterMap commandWordOf } = .next t
        ∧ run (n + 2 + microSteps (.write n v)) { s with cmds := (s.hostExpansion n v).filterMap commandWordOf }
            = .next u
        ∧ t.cmds = [] ∧ u.cmds = [] ∧ t.busy = false ∧ u.busy = false
        ∧ t.evt = u.evt ∧ t.wire = u.wire ∧ t.pins = u.pins ∧ t.tx = u.tx

/-- R203, R204: the well-formed transactions are exactly one WRITE by itself, and INIT any number of times, START, some
COLOR and END of as many pixels; END of another count is none. The host's own expansion of a WRITE is one. -/
def Obligations.TheHostsExpansionIsAWellFormedTransaction : Prop :=
  (∀ is : List Instr, wellFormedTransaction is = true ↔
      (∃ (n : Nat) (v : Byte), is = [.write n v])
        ∨ ∃ (k : Nat) (ps : List (Byte × Byte × Byte × Byte)),
          is = List.replicate k .init ++ .start :: ps.map (fun p => .color p.1 p.2.1 p.2.2.1 p.2.2.2)
            ++ [.endFrame ps.length])
    ∧ (∀ (k m : Nat) (ps : List (Byte × Byte × Byte × Byte)),
      wellFormedTransaction (List.replicate k .init ++ .start :: ps.map (fun p => .color p.1 p.2.1 p.2.2.1 p.2.2.2)
        ++ [.endFrame m]) = decide (m = ps.length))
    ∧ ∀ (s : State) (n : Nat) (v : Byte), wellFormedTransaction (s.hostExpansion n v) = true

/-- R203, R64, R68: a well-formed transaction that the host presents and leaves undisturbed runs to a result and puts one
complete transmission on the wire: start frame, one packet for each COLOR or each pixel of the WRITE, the padding for as
many. A receiver reads the packets back in order. Log entry 7 (DESIGN CHOICE): a byte of a pixel that the host does not
hold is a free value. -/
def Obligations.AWellFormedTransactionSendsOneCompleteTransmission : Prop :=
  ∀ (s : State) (is : List Instr), wellFormedTransaction is = true →
    is.all (fun i => i.wellFormed s.cfg) = true → s.cmds = is.filterMap commandWordOf →
    s.cmdReady = true → s.undisturbed = true → s.script.all (fun inp => !inp.withhold) = true →
    ∃ (k : Nat) (t : State) (packets : List Packet) (bits : List Bool),
      packets = is.flatMap s.packetsOf ∧ bits = (streamBytes packets).flatMap byteBits
        ∧ runResult k s = some t ∧ t.wire = s.wire ++ bits ∧ t.pins = .idle ∧ t.status = 0b1000#4
        ∧ decodeStream (bytesOfBits bits) = packets
        ∧ decodeStreamOf packets.length (bytesOfBits bits) = some packets

/-- R29: two WRITE commands with the same operands and the same pixels append the same events and the same bits. -/
def Obligations.WriteTwiceAppendsTheSameTwice : Prop :=
  ∀ (s : State) (n : Nat) (v : Byte) (w : CommandWord),
    s.cmdReady = true → s.script = [] → n < 2 ^ s.cfg.countW → s.holdsPixels n = true →
    encode (.write n v) = .cmd w →
    ∃ (t u : State) (events : List PinEvent) (bits : List Bool),
      run (1 + microSteps (.write n v)) { s with cmds := [w, w] } = .next t
        ∧ run (1 + microSteps (.write n v)) t = .next u
        ∧ t.evt = s.evt ++ events ∧ u.evt = t.evt ++ events
        ∧ t.wire = s.wire ++ bits ∧ u.wire = t.wire ++ bits
        ∧ events.length = microSteps (.write n v) ∧ bits.length = 8 * (4 + 4 * n + padBytes n)

/-- R29: nothing a block holds besides its pin latches (operand latches, position, `TX`, logs) changes what a command
puts on the wire. Log entry 7 (DESIGN CHOICE): a byte of a pixel that the host does not hold is a free value, a function
of the fetch's number and the address, so the two blocks also start with the model's own counter `draws` alike. -/
def Obligations.OnlyThePinLatchesCarryOver : Prop :=
  ∀ (s s' : State) (i : Instr), i.isOperation = true → s.cmdReady = true → s'.cmdReady = true →
    s.undisturbed = true → s'.script = s.script → s'.cfg = s.cfg → s'.pins = s.pins → s'.pix = s.pix →
    s'.draws = s.draws →
    ∃ (t t' u u' : State) (events : List PinEvent) (bits : List Bool),
      exec i s = .next t ∧ exec i s' = .next t'
        ∧ run (microSteps i) t = .next u ∧ run (microSteps i) t' = .next u'
        ∧ u.evt = s.evt ++ events ∧ u'.evt = s'.evt ++ events
        ∧ u.wire = s.wire ++ bits ∧ u'.wire = s'.wire ++ bits ∧ u.pins = u'.pins ∧ u.tx = u'.tx

/-- R68, R67: both decoders of the byte stream of one WRITE recover the pixels in order, and the brightness, for
operands 0 to 31; the four bytes before the pixels and the bytes after them are zero. Log entry 7 (DESIGN CHOICE): a byte
of a pixel that the host does not hold is a free value. -/
def Obligations.TheReceiverRecoversTheFrame : Prop :=
  ∀ (s : State) (n : Nat) (v : Byte), s.cmdReady = true → s.undisturbed = true → v.toNat ≤ 31 →
    ∃ (t u : State) (bits : List Bool), exec (.write n v) s = .next t
      ∧ run (microSteps (.write n v)) t = .next u ∧ u.wire = s.wire ++ bits
      ∧ decodeStreamOf n (bytesOfBits bits)
          = some ((List.range n).map (fun i => { pixel := s.pixelAt i, bright5 := v.extractLsb' 0 5 }))
      ∧ decodeStream (bytesOfBits bits)
          = (List.range n).map (fun i => { pixel := s.pixelAt i, bright5 := v.extractLsb' 0 5 })
      ∧ (bytesOfBits bits).take 4 = List.replicate 4 0
      ∧ (bytesOfBits bits).drop (4 + 4 * n) = List.replicate ((n + 14) / 16) 0

/-! ### The pixel space -/

/-- R134, R34, R41, R46, R51: at the first pin event of a control byte of a WRITE, `pix_addr` is `3*i` and `RED`, `GREEN`,
`BLUE` take the three bytes on `pix_data`, those at `3*i`, `3*i + 1`, `3*i + 2`, all as they stood before the host's writes of the same micro-step
or all after. -/
def Obligations.ThePixelFetchReadsThreeBytes : Prop :=
  ∀ (s : State) (i : Nat), s.busy = true → s.fault = false → s.input.rst = false →
    s.input.writesLegal s.cfg = true → s.op = 4 → s.idx = 5 + 4 * i → i < s.count → s.bit = 0 → s.sub = 0 →
    s.pixAddr = some (3 * i)
      ∧ ∃ (t : State) (m : List Host.Cell), step s = .next t ∧ s.pixData = some (t.red ++ t.green ++ t.blue)
        ∧ m = (if s.input.writesFirst then Memory.writeAll s.pix s.input.pixWrites else s.pix)
        ∧ (∀ x, Memory.read m (3 * i) = some x → t.red = x)
        ∧ (∀ x, Memory.read m (3 * i + 1) = some x → t.green = x)
        ∧ (∀ x, Memory.read m (3 * i + 2) = some x → t.blue = x)
        ∧ t.evt = s.evt ++ [.setD true] ∧ t.pix = Memory.writeAll s.pix s.input.pixWrites

/-- R43, R54: a step that puts no address on `pix_addr` does not depend on the pixel space. -/
def Obligations.OnlyAPixelFetchReadsThePixelSpace : Prop :=
  ∀ (s t : State) (p : List Host.Cell), s.input.pixWrites = [] → s.pixAddr = none → step s = .next t →
    step { s with pix := p } = .next { t with pix := p }

/-- R43: the block writes no byte of the pixel space; only the host's writes change it. -/
def Obligations.TheBlockWritesNoPixel : Prop :=
  ∀ s t : State, step s = .next t → t.pix = Memory.writeAll s.pix s.input.pixWrites

/-- R42, R45: the addresses on `pix_addr` are `3*i` with `i < COUNT`, in a WRITE only, at the pixel fetch of pixel i,
and the last byte read lies inside the space. -/
def Obligations.PixelAddressesAreMultiplesOfThreeInsideTheSpace : Prop :=
  ∀ (s : State) (a : Nat), s.Inv → s.pixAddr = some a →
    s.busy = true ∧ s.fault = false ∧ s.input.rst = false ∧ s.op = 4
      ∧ (∃ i < s.count, a = 3 * i ∧ s.idx = 5 + 4 * i ∧ s.bit = 0 ∧ s.sub = 0)
      ∧ a ≤ 3 * (2 ^ s.cfg.countW - 2) ∧ a + 2 < 2 ^ (s.cfg.countW + 2)

/-- R41, R51: a read of the pixel space gives the last byte written there, a write changes no other byte, and the
canonical form is kept. -/
def Obligations.PixelSpaceReadsBackWhatIsWritten : Prop :=
  ∀ (m : List Host.Cell) (ws : List Host.Cell) (a : Nat) (b : Byte) (x : Nat),
    Memory.read (Memory.write m a b) x = (if x = a then some b else Memory.read m x)
      ∧ (Memory.wf m = true → Memory.wf (Memory.writeAll m ws) = true)

/-! ### Timing and shared lines -/

/-- R210, R211: the cycles from acceptance to `cmd_ready` = 1 are the acceptance's dwell and those of the pin events;
with all dwells 1 they are one more than the steps of R154. Log entry 7
(DESIGN CHOICE): a byte of a pixel that the host does not hold is a free value; no cycle count depends on it. -/
def Obligations.CyclesOfACommand : Prop :=
  ∀ (s : State) (i : Instr) (w : CommandWord) (rest : List CommandWord),
    i.isOperation = true → i.wellFormed s.cfg = true → encode i = .cmd w → s.cmds = w :: rest →
    s.cmdReady = true → s.undisturbed = true → s.input.withhold = false →
    runCycles (1 + microSteps i) s = s.commandCycles i
      ∧ (s.cfg.tSetup = 1 → s.cfg.tHigh = 1 → s.cfg.tLow = 1 → s.cfg.tCfg = 1 → s.cfg.tAccept = 1 →
          s.commandCycles i = 1 + microSteps i)

/-- R173: a shared clock pin is driven exactly when any instance has `CLK.oe` = 1, and is then the OR of all `CLK.lvl`;
instances whose clock is low add nothing to it, whichever of them drive the pin. -/
def Obligations.IdleInstancesAddNothingToASharedClock : Prop :=
  (∀ l : List Pins,
    (sharedClockPad l = .undriven ↔ ∀ q ∈ l, q.clkOe = false)
      ∧ (sharedClockPad l = .high ↔ (∃ q ∈ l, q.clkOe = true) ∧ ∃ q ∈ l, q.clkLvl = true))
    ∧ ∀ (before after : List Pins) (p : Pins), (∀ q ∈ before ++ after, q.clkLvl = false) →
      sharedClockPad (before ++ p :: after) = padOf ((before ++ p :: after).any (·.clkOe)) p.clkLvl
end

