-- ==== Sys2Proof/Laws/State.lean ====
section
/-! SUPPORT. One lemma per field per state update, and the small laws of the shared operations' parts. -/

namespace Sys2Proof.Machine

/-! ### Fields after each update -/

@[simp] theorem State.emit_cfg (e : PinEvent) (s : State) : (s.emit e).cfg = s.cfg := rfl
@[simp] theorem State.emit_pins (e : PinEvent) (s : State) : (s.emit e).pins = s.pins.after e := rfl
@[simp] theorem State.emit_busy (e : PinEvent) (s : State) : (s.emit e).busy = s.busy := rfl
@[simp] theorem State.emit_tx (e : PinEvent) (s : State) : (s.emit e).tx = txAfter e s.tx := rfl
@[simp] theorem State.emit_fault (e : PinEvent) (s : State) : (s.emit e).fault = s.fault := rfl
@[simp] theorem State.emit_op (e : PinEvent) (s : State) : (s.emit e).op = s.op := rfl
@[simp] theorem State.emit_bright5 (e : PinEvent) (s : State) : (s.emit e).bright5 = s.bright5 := rfl
@[simp] theorem State.emit_count (e : PinEvent) (s : State) : (s.emit e).count = s.count := rfl
@[simp] theorem State.emit_npad (e : PinEvent) (s : State) : (s.emit e).npad = s.npad := rfl
@[simp] theorem State.emit_red (e : PinEvent) (s : State) : (s.emit e).red = s.red := rfl
@[simp] theorem State.emit_green (e : PinEvent) (s : State) : (s.emit e).green = s.green := rfl
@[simp] theorem State.emit_blue (e : PinEvent) (s : State) : (s.emit e).blue = s.blue := rfl
@[simp] theorem State.emit_idx (e : PinEvent) (s : State) : (s.emit e).idx = s.idx := rfl
@[simp] theorem State.emit_bit (e : PinEvent) (s : State) : (s.emit e).bit = s.bit := rfl
@[simp] theorem State.emit_sub (e : PinEvent) (s : State) : (s.emit e).sub = s.sub := rfl
@[simp] theorem State.emit_evt (e : PinEvent) (s : State) : (s.emit e).evt = s.evt ++ [e] := rfl
@[simp] theorem State.emit_wire (e : PinEvent) (s : State) : (s.emit e).wire = s.wire ++ sampledBits e s.pins := rfl
@[simp] theorem State.emit_pix (e : PinEvent) (s : State) : (s.emit e).pix = s.pix := rfl
@[simp] theorem State.emit_draws (e : PinEvent) (s : State) : (s.emit e).draws = s.draws := rfl
@[simp] theorem State.emit_cmds (e : PinEvent) (s : State) : (s.emit e).cmds = s.cmds := rfl
@[simp] theorem State.emit_script (e : PinEvent) (s : State) : (s.emit e).script = s.script := rfl

/-- The three bytes on `pix_data`, each in its place (`10_state.md` R34). -/
theorem State.pixDataAt_fields (a : Nat) (s : State) :
    (s.pixDataAt a).extractLsb' 16 8 = s.byteAt a ∧ (s.pixDataAt a).extractLsb' 8 8 = s.byteAt (a + 1)
      ∧ (s.pixDataAt a).extractLsb' 0 8 = s.byteAt (a + 2) := by
  have h : ∀ x y z : Byte, (x ++ y ++ z : BitVec 24).extractLsb' 16 8 = x ∧
      (x ++ y ++ z : BitVec 24).extractLsb' 8 8 = y ∧ (x ++ y ++ z : BitVec 24).extractLsb' 0 8 = z := by
    intro x y z
    refine ⟨?_, ?_, ?_⟩ <;>
    · ext i hi
      simp only [BitVec.getElem_extractLsb', BitVec.getLsbD_append]
      interval_cases i <;> simp
  exact h _ _ _

@[simp] theorem State.pixelFetch_red (i : Nat) (s : State) : (s.pixelFetch i).red = s.byteAt (3 * i) :=
  (State.pixDataAt_fields (3 * i) s).1
@[simp] theorem State.pixelFetch_green (i : Nat) (s : State) : (s.pixelFetch i).green = s.byteAt (3 * i + 1) :=
  (State.pixDataAt_fields (3 * i) s).2.1
@[simp] theorem State.pixelFetch_blue (i : Nat) (s : State) : (s.pixelFetch i).blue = s.byteAt (3 * i + 2) :=
  (State.pixDataAt_fields (3 * i) s).2.2

/-- Everything a pixel fetch writes. -/
theorem State.pixelFetch_eq (i : Nat) (s : State) :
    s.pixelFetch i =
      { s with
        red := s.byteAt (3 * i), green := s.byteAt (3 * i + 1), blue := s.byteAt (3 * i + 2),
        draws := s.draws + 1 } := by
  obtain ⟨h1, h2, h3⟩ := State.pixDataAt_fields (3 * i) s
  rw [State.pixelFetch, h1, h2, h3]

@[simp] theorem State.pixelFetch_cfg (i : Nat) (s : State) : (s.pixelFetch i).cfg = s.cfg := rfl
@[simp] theorem State.pixelFetch_pins (i : Nat) (s : State) : (s.pixelFetch i).pins = s.pins := rfl
@[simp] theorem State.pixelFetch_busy (i : Nat) (s : State) : (s.pixelFetch i).busy = s.busy := rfl
@[simp] theorem State.pixelFetch_tx (i : Nat) (s : State) : (s.pixelFetch i).tx = s.tx := rfl
@[simp] theorem State.pixelFetch_fault (i : Nat) (s : State) : (s.pixelFetch i).fault = s.fault := rfl
@[simp] theorem State.pixelFetch_op (i : Nat) (s : State) : (s.pixelFetch i).op = s.op := rfl
@[simp] theorem State.pixelFetch_bright5 (i : Nat) (s : State) : (s.pixelFetch i).bright5 = s.bright5 := rfl
@[simp] theorem State.pixelFetch_count (i : Nat) (s : State) : (s.pixelFetch i).count = s.count := rfl
@[simp] theorem State.pixelFetch_npad (i : Nat) (s : State) : (s.pixelFetch i).npad = s.npad := rfl
@[simp] theorem State.pixelFetch_idx (i : Nat) (s : State) : (s.pixelFetch i).idx = s.idx := rfl
@[simp] theorem State.pixelFetch_bit (i : Nat) (s : State) : (s.pixelFetch i).bit = s.bit := rfl
@[simp] theorem State.pixelFetch_sub (i : Nat) (s : State) : (s.pixelFetch i).sub = s.sub := rfl
@[simp] theorem State.pixelFetch_evt (i : Nat) (s : State) : (s.pixelFetch i).evt = s.evt := rfl
@[simp] theorem State.pixelFetch_wire (i : Nat) (s : State) : (s.pixelFetch i).wire = s.wire := rfl
@[simp] theorem State.pixelFetch_pix (i : Nat) (s : State) : (s.pixelFetch i).pix = s.pix := rfl
@[simp] theorem State.pixelFetch_draws (i : Nat) (s : State) : (s.pixelFetch i).draws = s.draws + 1 := rfl
@[simp] theorem State.pixelFetch_cmds (i : Nat) (s : State) : (s.pixelFetch i).cmds = s.cmds := rfl
@[simp] theorem State.pixelFetch_script (i : Nat) (s : State) : (s.pixelFetch i).script = s.script := rfl

@[simp] theorem State.raiseGpioConfigFault_cfg (s : State) : (s.raiseGpioConfigFault).cfg = s.cfg := rfl
@[simp] theorem State.raiseGpioConfigFault_pins (s : State) : (s.raiseGpioConfigFault).pins = s.pins := rfl
@[simp] theorem State.raiseGpioConfigFault_busy (s : State) : (s.raiseGpioConfigFault).busy = s.busy := rfl
@[simp] theorem State.raiseGpioConfigFault_tx (s : State) : (s.raiseGpioConfigFault).tx = s.tx := rfl
@[simp] theorem State.raiseGpioConfigFault_fault (s : State) : (s.raiseGpioConfigFault).fault = true := rfl
@[simp] theorem State.raiseGpioConfigFault_op (s : State) : (s.raiseGpioConfigFault).op = s.op := rfl
@[simp] theorem State.raiseGpioConfigFault_bright5 (s : State) : (s.raiseGpioConfigFault).bright5 = s.bright5 := rfl
@[simp] theorem State.raiseGpioConfigFault_count (s : State) : (s.raiseGpioConfigFault).count = s.count := rfl
@[simp] theorem State.raiseGpioConfigFault_npad (s : State) : (s.raiseGpioConfigFault).npad = s.npad := rfl
@[simp] theorem State.raiseGpioConfigFault_red (s : State) : (s.raiseGpioConfigFault).red = s.red := rfl
@[simp] theorem State.raiseGpioConfigFault_green (s : State) : (s.raiseGpioConfigFault).green = s.green := rfl
@[simp] theorem State.raiseGpioConfigFault_blue (s : State) : (s.raiseGpioConfigFault).blue = s.blue := rfl
@[simp] theorem State.raiseGpioConfigFault_idx (s : State) : (s.raiseGpioConfigFault).idx = s.idx := rfl
@[simp] theorem State.raiseGpioConfigFault_bit (s : State) : (s.raiseGpioConfigFault).bit = s.bit := rfl
@[simp] theorem State.raiseGpioConfigFault_sub (s : State) : (s.raiseGpioConfigFault).sub = s.sub := rfl
@[simp] theorem State.raiseGpioConfigFault_evt (s : State) : (s.raiseGpioConfigFault).evt = s.evt := rfl
@[simp] theorem State.raiseGpioConfigFault_wire (s : State) : (s.raiseGpioConfigFault).wire = s.wire := rfl
@[simp] theorem State.raiseGpioConfigFault_pix (s : State) : (s.raiseGpioConfigFault).pix = s.pix := rfl
@[simp] theorem State.raiseGpioConfigFault_draws (s : State) : (s.raiseGpioConfigFault).draws = s.draws := rfl
@[simp] theorem State.raiseGpioConfigFault_cmds (s : State) : (s.raiseGpioConfigFault).cmds = s.cmds := rfl
@[simp] theorem State.raiseGpioConfigFault_script (s : State) : (s.raiseGpioConfigFault).script = s.script := rfl

@[simp] theorem State.takeCommand_cfg (s : State) : (s.takeCommand).cfg = s.cfg := rfl
@[simp] theorem State.takeCommand_pins (s : State) : (s.takeCommand).pins = s.pins := rfl
@[simp] theorem State.takeCommand_busy (s : State) : (s.takeCommand).busy = s.busy := rfl
@[simp] theorem State.takeCommand_tx (s : State) : (s.takeCommand).tx = s.tx := rfl
@[simp] theorem State.takeCommand_fault (s : State) : (s.takeCommand).fault = s.fault := rfl
@[simp] theorem State.takeCommand_op (s : State) : (s.takeCommand).op = s.op := rfl
@[simp] theorem State.takeCommand_bright5 (s : State) : (s.takeCommand).bright5 = s.bright5 := rfl
@[simp] theorem State.takeCommand_count (s : State) : (s.takeCommand).count = s.count := rfl
@[simp] theorem State.takeCommand_npad (s : State) : (s.takeCommand).npad = s.npad := rfl
@[simp] theorem State.takeCommand_red (s : State) : (s.takeCommand).red = s.red := rfl
@[simp] theorem State.takeCommand_green (s : State) : (s.takeCommand).green = s.green := rfl
@[simp] theorem State.takeCommand_blue (s : State) : (s.takeCommand).blue = s.blue := rfl
@[simp] theorem State.takeCommand_idx (s : State) : (s.takeCommand).idx = s.idx := rfl
@[simp] theorem State.takeCommand_bit (s : State) : (s.takeCommand).bit = s.bit := rfl
@[simp] theorem State.takeCommand_sub (s : State) : (s.takeCommand).sub = s.sub := rfl
@[simp] theorem State.takeCommand_evt (s : State) : (s.takeCommand).evt = s.evt := rfl
@[simp] theorem State.takeCommand_wire (s : State) : (s.takeCommand).wire = s.wire := rfl
@[simp] theorem State.takeCommand_pix (s : State) : (s.takeCommand).pix = s.pix := rfl
@[simp] theorem State.takeCommand_draws (s : State) : (s.takeCommand).draws = s.draws := rfl
@[simp] theorem State.takeCommand_cmds (s : State) : (s.takeCommand).cmds = s.cmds.tail := rfl
@[simp] theorem State.takeCommand_script (s : State) : (s.takeCommand).script = s.script := rfl

@[simp] theorem State.hostWrites_cfg (inp : HostInput) (s : State) : (s.hostWrites inp).cfg = s.cfg := rfl
@[simp] theorem State.hostWrites_pins (inp : HostInput) (s : State) : (s.hostWrites inp).pins = s.pins := rfl
@[simp] theorem State.hostWrites_busy (inp : HostInput) (s : State) : (s.hostWrites inp).busy = s.busy := rfl
@[simp] theorem State.hostWrites_tx (inp : HostInput) (s : State) : (s.hostWrites inp).tx = s.tx := rfl
@[simp] theorem State.hostWrites_fault (inp : HostInput) (s : State) : (s.hostWrites inp).fault = s.fault := rfl
@[simp] theorem State.hostWrites_op (inp : HostInput) (s : State) : (s.hostWrites inp).op = s.op := rfl
@[simp] theorem State.hostWrites_bright5 (inp : HostInput) (s : State) : (s.hostWrites inp).bright5 = s.bright5 := rfl
@[simp] theorem State.hostWrites_count (inp : HostInput) (s : State) : (s.hostWrites inp).count = s.count := rfl
@[simp] theorem State.hostWrites_npad (inp : HostInput) (s : State) : (s.hostWrites inp).npad = s.npad := rfl
@[simp] theorem State.hostWrites_red (inp : HostInput) (s : State) : (s.hostWrites inp).red = s.red := rfl
@[simp] theorem State.hostWrites_green (inp : HostInput) (s : State) : (s.hostWrites inp).green = s.green := rfl
@[simp] theorem State.hostWrites_blue (inp : HostInput) (s : State) : (s.hostWrites inp).blue = s.blue := rfl
@[simp] theorem State.hostWrites_idx (inp : HostInput) (s : State) : (s.hostWrites inp).idx = s.idx := rfl
@[simp] theorem State.hostWrites_bit (inp : HostInput) (s : State) : (s.hostWrites inp).bit = s.bit := rfl
@[simp] theorem State.hostWrites_sub (inp : HostInput) (s : State) : (s.hostWrites inp).sub = s.sub := rfl
@[simp] theorem State.hostWrites_evt (inp : HostInput) (s : State) : (s.hostWrites inp).evt = s.evt := rfl
@[simp] theorem State.hostWrites_wire (inp : HostInput) (s : State) : (s.hostWrites inp).wire = s.wire := rfl
@[simp] theorem State.hostWrites_pix (inp : HostInput) (s : State) : (s.hostWrites inp).pix = Memory.writeAll s.pix inp.pixWrites := rfl
@[simp] theorem State.hostWrites_draws (inp : HostInput) (s : State) : (s.hostWrites inp).draws = s.draws := rfl
@[simp] theorem State.hostWrites_cmds (inp : HostInput) (s : State) : (s.hostWrites inp).cmds = s.cmds := rfl
@[simp] theorem State.hostWrites_script (inp : HostInput) (s : State) : (s.hostWrites inp).script = s.script := rfl

@[simp] theorem State.dropInputs_cfg (n : Nat) (s : State) : (s.dropInputs n).cfg = s.cfg := rfl
@[simp] theorem State.dropInputs_pins (n : Nat) (s : State) : (s.dropInputs n).pins = s.pins := rfl
@[simp] theorem State.dropInputs_busy (n : Nat) (s : State) : (s.dropInputs n).busy = s.busy := rfl
@[simp] theorem State.dropInputs_tx (n : Nat) (s : State) : (s.dropInputs n).tx = s.tx := rfl
@[simp] theorem State.dropInputs_fault (n : Nat) (s : State) : (s.dropInputs n).fault = s.fault := rfl
@[simp] theorem State.dropInputs_op (n : Nat) (s : State) : (s.dropInputs n).op = s.op := rfl
@[simp] theorem State.dropInputs_bright5 (n : Nat) (s : State) : (s.dropInputs n).bright5 = s.bright5 := rfl
@[simp] theorem State.dropInputs_count (n : Nat) (s : State) : (s.dropInputs n).count = s.count := rfl
@[simp] theorem State.dropInputs_npad (n : Nat) (s : State) : (s.dropInputs n).npad = s.npad := rfl
@[simp] theorem State.dropInputs_red (n : Nat) (s : State) : (s.dropInputs n).red = s.red := rfl
@[simp] theorem State.dropInputs_green (n : Nat) (s : State) : (s.dropInputs n).green = s.green := rfl
@[simp] theorem State.dropInputs_blue (n : Nat) (s : State) : (s.dropInputs n).blue = s.blue := rfl
@[simp] theorem State.dropInputs_idx (n : Nat) (s : State) : (s.dropInputs n).idx = s.idx := rfl
@[simp] theorem State.dropInputs_bit (n : Nat) (s : State) : (s.dropInputs n).bit = s.bit := rfl
@[simp] theorem State.dropInputs_sub (n : Nat) (s : State) : (s.dropInputs n).sub = s.sub := rfl
@[simp] theorem State.dropInputs_evt (n : Nat) (s : State) : (s.dropInputs n).evt = s.evt := rfl
@[simp] theorem State.dropInputs_wire (n : Nat) (s : State) : (s.dropInputs n).wire = s.wire := rfl
@[simp] theorem State.dropInputs_pix (n : Nat) (s : State) : (s.dropInputs n).pix = s.pix := rfl
@[simp] theorem State.dropInputs_draws (n : Nat) (s : State) : (s.dropInputs n).draws = s.draws := rfl
@[simp] theorem State.dropInputs_cmds (n : Nat) (s : State) : (s.dropInputs n).cmds = s.cmds := rfl
@[simp] theorem State.dropInputs_script (n : Nat) (s : State) : (s.dropInputs n).script = s.script.drop n := rfl

@[simp] theorem State.resetBlock_cfg (s : State) : (s.resetBlock).cfg = s.cfg := rfl
@[simp] theorem State.resetBlock_pins (s : State) : (s.resetBlock).pins = .reset := rfl
@[simp] theorem State.resetBlock_busy (s : State) : (s.resetBlock).busy = false := rfl
@[simp] theorem State.resetBlock_tx (s : State) : (s.resetBlock).tx = false := rfl
@[simp] theorem State.resetBlock_fault (s : State) : (s.resetBlock).fault = false := rfl
@[simp] theorem State.resetBlock_op (s : State) : (s.resetBlock).op = 0 := rfl
@[simp] theorem State.resetBlock_bright5 (s : State) : (s.resetBlock).bright5 = 0 := rfl
@[simp] theorem State.resetBlock_count (s : State) : (s.resetBlock).count = 0 := rfl
@[simp] theorem State.resetBlock_npad (s : State) : (s.resetBlock).npad = 0 := rfl
@[simp] theorem State.resetBlock_red (s : State) : (s.resetBlock).red = 0 := rfl
@[simp] theorem State.resetBlock_green (s : State) : (s.resetBlock).green = 0 := rfl
@[simp] theorem State.resetBlock_blue (s : State) : (s.resetBlock).blue = 0 := rfl
@[simp] theorem State.resetBlock_idx (s : State) : (s.resetBlock).idx = 0 := rfl
@[simp] theorem State.resetBlock_bit (s : State) : (s.resetBlock).bit = 0 := rfl
@[simp] theorem State.resetBlock_sub (s : State) : (s.resetBlock).sub = 0 := rfl
@[simp] theorem State.resetBlock_evt (s : State) : (s.resetBlock).evt = [] := rfl
@[simp] theorem State.resetBlock_wire (s : State) : (s.resetBlock).wire = [] := rfl
@[simp] theorem State.resetBlock_pix (s : State) : (s.resetBlock).pix = s.pix := rfl
@[simp] theorem State.resetBlock_draws (s : State) : (s.resetBlock).draws = s.draws := rfl
@[simp] theorem State.resetBlock_cmds (s : State) : (s.resetBlock).cmds = s.cmds := rfl
@[simp] theorem State.resetBlock_script (s : State) : (s.resetBlock).script = s.script := rfl

@[simp] theorem State.setPos_cfg (bit : BitVec 3) (sub : BitVec 2) (s : State) : (s.setPos bit sub).cfg = s.cfg := rfl
@[simp] theorem State.setPos_pins (bit : BitVec 3) (sub : BitVec 2) (s : State) : (s.setPos bit sub).pins = s.pins := rfl
@[simp] theorem State.setPos_busy (bit : BitVec 3) (sub : BitVec 2) (s : State) : (s.setPos bit sub).busy = s.busy := rfl
@[simp] theorem State.setPos_tx (bit : BitVec 3) (sub : BitVec 2) (s : State) : (s.setPos bit sub).tx = s.tx := rfl
@[simp] theorem State.setPos_fault (bit : BitVec 3) (sub : BitVec 2) (s : State) : (s.setPos bit sub).fault = s.fault := rfl
@[simp] theorem State.setPos_op (bit : BitVec 3) (sub : BitVec 2) (s : State) : (s.setPos bit sub).op = s.op := rfl
@[simp] theorem State.setPos_bright5 (bit : BitVec 3) (sub : BitVec 2) (s : State) : (s.setPos bit sub).bright5 = s.bright5 := rfl
@[simp] theorem State.setPos_count (bit : BitVec 3) (sub : BitVec 2) (s : State) : (s.setPos bit sub).count = s.count := rfl
@[simp] theorem State.setPos_npad (bit : BitVec 3) (sub : BitVec 2) (s : State) : (s.setPos bit sub).npad = s.npad := rfl
@[simp] theorem State.setPos_red (bit : BitVec 3) (sub : BitVec 2) (s : State) : (s.setPos bit sub).red = s.red := rfl
@[simp] theorem State.setPos_green (bit : BitVec 3) (sub : BitVec 2) (s : State) : (s.setPos bit sub).green = s.green := rfl
@[simp] theorem State.setPos_blue (bit : BitVec 3) (sub : BitVec 2) (s : State) : (s.setPos bit sub).blue = s.blue := rfl
@[simp] theorem State.setPos_idx (bit : BitVec 3) (sub : BitVec 2) (s : State) : (s.setPos bit sub).idx = s.idx := rfl
@[simp] theorem State.setPos_bit (bit : BitVec 3) (sub : BitVec 2) (s : State) : (s.setPos bit sub).bit = bit := rfl
@[simp] theorem State.setPos_sub (bit : BitVec 3) (sub : BitVec 2) (s : State) : (s.setPos bit sub).sub = sub := rfl
@[simp] theorem State.setPos_evt (bit : BitVec 3) (sub : BitVec 2) (s : State) : (s.setPos bit sub).evt = s.evt := rfl
@[simp] theorem State.setPos_wire (bit : BitVec 3) (sub : BitVec 2) (s : State) : (s.setPos bit sub).wire = s.wire := rfl
@[simp] theorem State.setPos_pix (bit : BitVec 3) (sub : BitVec 2) (s : State) : (s.setPos bit sub).pix = s.pix := rfl
@[simp] theorem State.setPos_draws (bit : BitVec 3) (sub : BitVec 2) (s : State) : (s.setPos bit sub).draws = s.draws := rfl
@[simp] theorem State.setPos_cmds (bit : BitVec 3) (sub : BitVec 2) (s : State) : (s.setPos bit sub).cmds = s.cmds := rfl
@[simp] theorem State.setPos_script (bit : BitVec 3) (sub : BitVec 2) (s : State) : (s.setPos bit sub).script = s.script := rfl

@[simp] theorem State.begun_cfg (s : State) : (s.begun).cfg = s.cfg := rfl
@[simp] theorem State.begun_pins (s : State) : (s.begun).pins = s.pins := rfl
@[simp] theorem State.begun_busy (s : State) : (s.begun).busy = true := rfl
@[simp] theorem State.begun_tx (s : State) : (s.begun).tx = s.tx := rfl
@[simp] theorem State.begun_fault (s : State) : (s.begun).fault = s.fault := rfl
@[simp] theorem State.begun_op (s : State) : (s.begun).op = s.op := rfl
@[simp] theorem State.begun_bright5 (s : State) : (s.begun).bright5 = s.bright5 := rfl
@[simp] theorem State.begun_count (s : State) : (s.begun).count = s.count := rfl
@[simp] theorem State.begun_npad (s : State) : (s.begun).npad = s.npad := rfl
@[simp] theorem State.begun_red (s : State) : (s.begun).red = s.red := rfl
@[simp] theorem State.begun_green (s : State) : (s.begun).green = s.green := rfl
@[simp] theorem State.begun_blue (s : State) : (s.begun).blue = s.blue := rfl
@[simp] theorem State.begun_idx (s : State) : (s.begun).idx = 0 := rfl
@[simp] theorem State.begun_bit (s : State) : (s.begun).bit = 0 := rfl
@[simp] theorem State.begun_sub (s : State) : (s.begun).sub = 0 := rfl
@[simp] theorem State.begun_evt (s : State) : (s.begun).evt = s.evt := rfl
@[simp] theorem State.begun_wire (s : State) : (s.begun).wire = s.wire := rfl
@[simp] theorem State.begun_pix (s : State) : (s.begun).pix = s.pix := rfl
@[simp] theorem State.begun_draws (s : State) : (s.begun).draws = s.draws := rfl
@[simp] theorem State.begun_cmds (s : State) : (s.begun).cmds = s.cmds := rfl
@[simp] theorem State.begun_script (s : State) : (s.begun).script = s.script := rfl

@[simp] theorem State.completed_cfg (s : State) : (s.completed).cfg = s.cfg := rfl
@[simp] theorem State.completed_pins (s : State) : (s.completed).pins = s.pins := rfl
@[simp] theorem State.completed_busy (s : State) : (s.completed).busy = false := rfl
@[simp] theorem State.completed_tx (s : State) : (s.completed).tx = s.tx := rfl
@[simp] theorem State.completed_fault (s : State) : (s.completed).fault = s.fault := rfl
@[simp] theorem State.completed_op (s : State) : (s.completed).op = s.op := rfl
@[simp] theorem State.completed_bright5 (s : State) : (s.completed).bright5 = s.bright5 := rfl
@[simp] theorem State.completed_count (s : State) : (s.completed).count = s.count := rfl
@[simp] theorem State.completed_npad (s : State) : (s.completed).npad = s.npad := rfl
@[simp] theorem State.completed_red (s : State) : (s.completed).red = s.red := rfl
@[simp] theorem State.completed_green (s : State) : (s.completed).green = s.green := rfl
@[simp] theorem State.completed_blue (s : State) : (s.completed).blue = s.blue := rfl
@[simp] theorem State.completed_idx (s : State) : (s.completed).idx = 0 := rfl
@[simp] theorem State.completed_bit (s : State) : (s.completed).bit = 0 := rfl
@[simp] theorem State.completed_sub (s : State) : (s.completed).sub = 0 := rfl
@[simp] theorem State.completed_evt (s : State) : (s.completed).evt = s.evt := rfl
@[simp] theorem State.completed_wire (s : State) : (s.completed).wire = s.wire := rfl
@[simp] theorem State.completed_pix (s : State) : (s.completed).pix = s.pix := rfl
@[simp] theorem State.completed_draws (s : State) : (s.completed).draws = s.draws := rfl
@[simp] theorem State.completed_cmds (s : State) : (s.completed).cmds = s.cmds := rfl
@[simp] theorem State.completed_script (s : State) : (s.completed).script = s.script := rfl

@[simp] theorem State.finishItem_cfg (s : State) : (s.finishItem).cfg = s.cfg := by unfold State.finishItem; split <;> rfl
@[simp] theorem State.finishItem_pins (s : State) : (s.finishItem).pins = s.pins := by unfold State.finishItem; split <;> rfl
@[simp] theorem State.finishItem_tx (s : State) : (s.finishItem).tx = s.tx := by unfold State.finishItem; split <;> rfl
@[simp] theorem State.finishItem_fault (s : State) : (s.finishItem).fault = s.fault := by unfold State.finishItem; split <;> rfl
@[simp] theorem State.finishItem_op (s : State) : (s.finishItem).op = s.op := by unfold State.finishItem; split <;> rfl
@[simp] theorem State.finishItem_bright5 (s : State) : (s.finishItem).bright5 = s.bright5 := by unfold State.finishItem; split <;> rfl
@[simp] theorem State.finishItem_count (s : State) : (s.finishItem).count = s.count := by unfold State.finishItem; split <;> rfl
@[simp] theorem State.finishItem_npad (s : State) : (s.finishItem).npad = s.npad := by unfold State.finishItem; split <;> rfl
@[simp] theorem State.finishItem_red (s : State) : (s.finishItem).red = s.red := by unfold State.finishItem; split <;> rfl
@[simp] theorem State.finishItem_green (s : State) : (s.finishItem).green = s.green := by unfold State.finishItem; split <;> rfl
@[simp] theorem State.finishItem_blue (s : State) : (s.finishItem).blue = s.blue := by unfold State.finishItem; split <;> rfl
@[simp] theorem State.finishItem_bit (s : State) : (s.finishItem).bit = s.bit := by unfold State.finishItem; split <;> rfl
@[simp] theorem State.finishItem_sub (s : State) : (s.finishItem).sub = s.sub := by unfold State.finishItem; split <;> rfl
@[simp] theorem State.finishItem_evt (s : State) : (s.finishItem).evt = s.evt := by unfold State.finishItem; split <;> rfl
@[simp] theorem State.finishItem_wire (s : State) : (s.finishItem).wire = s.wire := by unfold State.finishItem; split <;> rfl
@[simp] theorem State.finishItem_pix (s : State) : (s.finishItem).pix = s.pix := by unfold State.finishItem; split <;> rfl
@[simp] theorem State.finishItem_draws (s : State) : (s.finishItem).draws = s.draws := by unfold State.finishItem; split <;> rfl
@[simp] theorem State.finishItem_cmds (s : State) : (s.finishItem).cmds = s.cmds := by unfold State.finishItem; split <;> rfl
@[simp] theorem State.finishItem_script (s : State) : (s.finishItem).script = s.script := by unfold State.finishItem; split <;> rfl

@[simp] theorem State.fetchIfDue_cfg (s : State) : (s.fetchIfDue).cfg = s.cfg := by unfold State.fetchIfDue; split <;> rfl
@[simp] theorem State.fetchIfDue_pins (s : State) : (s.fetchIfDue).pins = s.pins := by unfold State.fetchIfDue; split <;> rfl
@[simp] theorem State.fetchIfDue_busy (s : State) : (s.fetchIfDue).busy = s.busy := by unfold State.fetchIfDue; split <;> rfl
@[simp] theorem State.fetchIfDue_tx (s : State) : (s.fetchIfDue).tx = s.tx := by unfold State.fetchIfDue; split <;> rfl
@[simp] theorem State.fetchIfDue_fault (s : State) : (s.fetchIfDue).fault = s.fault := by unfold State.fetchIfDue; split <;> rfl
@[simp] theorem State.fetchIfDue_op (s : State) : (s.fetchIfDue).op = s.op := by unfold State.fetchIfDue; split <;> rfl
@[simp] theorem State.fetchIfDue_bright5 (s : State) : (s.fetchIfDue).bright5 = s.bright5 := by unfold State.fetchIfDue; split <;> rfl
@[simp] theorem State.fetchIfDue_count (s : State) : (s.fetchIfDue).count = s.count := by unfold State.fetchIfDue; split <;> rfl
@[simp] theorem State.fetchIfDue_npad (s : State) : (s.fetchIfDue).npad = s.npad := by unfold State.fetchIfDue; split <;> rfl
@[simp] theorem State.fetchIfDue_idx (s : State) : (s.fetchIfDue).idx = s.idx := by unfold State.fetchIfDue; split <;> rfl
@[simp] theorem State.fetchIfDue_bit (s : State) : (s.fetchIfDue).bit = s.bit := by unfold State.fetchIfDue; split <;> rfl
@[simp] theorem State.fetchIfDue_sub (s : State) : (s.fetchIfDue).sub = s.sub := by unfold State.fetchIfDue; split <;> rfl
@[simp] theorem State.fetchIfDue_evt (s : State) : (s.fetchIfDue).evt = s.evt := by unfold State.fetchIfDue; split <;> rfl
@[simp] theorem State.fetchIfDue_wire (s : State) : (s.fetchIfDue).wire = s.wire := by unfold State.fetchIfDue; split <;> rfl
@[simp] theorem State.fetchIfDue_pix (s : State) : (s.fetchIfDue).pix = s.pix := by unfold State.fetchIfDue; split <;> rfl
@[simp] theorem State.fetchIfDue_cmds (s : State) : (s.fetchIfDue).cmds = s.cmds := by unfold State.fetchIfDue; split <;> rfl
@[simp] theorem State.fetchIfDue_script (s : State) : (s.fetchIfDue).script = s.script := by unfold State.fetchIfDue; split <;> rfl

@[simp] theorem State.beginMicroStep_cfg (inp : HostInput) (s : State) : (s.beginMicroStep inp).cfg = s.cfg := by unfold State.beginMicroStep; split <;> rfl
@[simp] theorem State.beginMicroStep_pins (inp : HostInput) (s : State) : (s.beginMicroStep inp).pins = s.pins := by unfold State.beginMicroStep; split <;> rfl
@[simp] theorem State.beginMicroStep_busy (inp : HostInput) (s : State) : (s.beginMicroStep inp).busy = s.busy := by unfold State.beginMicroStep; split <;> rfl
@[simp] theorem State.beginMicroStep_tx (inp : HostInput) (s : State) : (s.beginMicroStep inp).tx = s.tx := by unfold State.beginMicroStep; split <;> rfl
@[simp] theorem State.beginMicroStep_fault (inp : HostInput) (s : State) : (s.beginMicroStep inp).fault = s.fault := by unfold State.beginMicroStep; split <;> rfl
@[simp] theorem State.beginMicroStep_op (inp : HostInput) (s : State) : (s.beginMicroStep inp).op = s.op := by unfold State.beginMicroStep; split <;> rfl
@[simp] theorem State.beginMicroStep_bright5 (inp : HostInput) (s : State) : (s.beginMicroStep inp).bright5 = s.bright5 := by unfold State.beginMicroStep; split <;> rfl
@[simp] theorem State.beginMicroStep_count (inp : HostInput) (s : State) : (s.beginMicroStep inp).count = s.count := by unfold State.beginMicroStep; split <;> rfl
@[simp] theorem State.beginMicroStep_npad (inp : HostInput) (s : State) : (s.beginMicroStep inp).npad = s.npad := by unfold State.beginMicroStep; split <;> rfl
@[simp] theorem State.beginMicroStep_red (inp : HostInput) (s : State) : (s.beginMicroStep inp).red = s.red := by unfold State.beginMicroStep; split <;> rfl
@[simp] theorem State.beginMicroStep_green (inp : HostInput) (s : State) : (s.beginMicroStep inp).green = s.green := by unfold State.beginMicroStep; split <;> rfl
@[simp] theorem State.beginMicroStep_blue (inp : HostInput) (s : State) : (s.beginMicroStep inp).blue = s.blue := by unfold State.beginMicroStep; split <;> rfl
@[simp] theorem State.beginMicroStep_idx (inp : HostInput) (s : State) : (s.beginMicroStep inp).idx = s.idx := by unfold State.beginMicroStep; split <;> rfl
@[simp] theorem State.beginMicroStep_bit (inp : HostInput) (s : State) : (s.beginMicroStep inp).bit = s.bit := by unfold State.beginMicroStep; split <;> rfl
@[simp] theorem State.beginMicroStep_sub (inp : HostInput) (s : State) : (s.beginMicroStep inp).sub = s.sub := by unfold State.beginMicroStep; split <;> rfl
@[simp] theorem State.beginMicroStep_evt (inp : HostInput) (s : State) : (s.beginMicroStep inp).evt = s.evt := by unfold State.beginMicroStep; split <;> rfl
@[simp] theorem State.beginMicroStep_wire (inp : HostInput) (s : State) : (s.beginMicroStep inp).wire = s.wire := by unfold State.beginMicroStep; split <;> rfl
@[simp] theorem State.beginMicroStep_draws (inp : HostInput) (s : State) : (s.beginMicroStep inp).draws = s.draws := by unfold State.beginMicroStep; split <;> rfl
@[simp] theorem State.beginMicroStep_cmds (inp : HostInput) (s : State) : (s.beginMicroStep inp).cmds = s.cmds := by unfold State.beginMicroStep; split <;> rfl
@[simp] theorem State.beginMicroStep_script (inp : HostInput) (s : State) : (s.beginMicroStep inp).script = s.script.tail := by unfold State.beginMicroStep; split <;> rfl

@[simp] theorem State.endMicroStep_cfg (inp : HostInput) (s : State) : (s.endMicroStep inp).cfg = s.cfg := by unfold State.endMicroStep; split <;> rfl
@[simp] theorem State.endMicroStep_pins (inp : HostInput) (s : State) : (s.endMicroStep inp).pins = s.pins := by unfold State.endMicroStep; split <;> rfl
@[simp] theorem State.endMicroStep_busy (inp : HostInput) (s : State) : (s.endMicroStep inp).busy = s.busy := by unfold State.endMicroStep; split <;> rfl
@[simp] theorem State.endMicroStep_tx (inp : HostInput) (s : State) : (s.endMicroStep inp).tx = s.tx := by unfold State.endMicroStep; split <;> rfl
@[simp] theorem State.endMicroStep_fault (inp : HostInput) (s : State) : (s.endMicroStep inp).fault = s.fault := by unfold State.endMicroStep; split <;> rfl
@[simp] theorem State.endMicroStep_op (inp : HostInput) (s : State) : (s.endMicroStep inp).op = s.op := by unfold State.endMicroStep; split <;> rfl
@[simp] theorem State.endMicroStep_bright5 (inp : HostInput) (s : State) : (s.endMicroStep inp).bright5 = s.bright5 := by unfold State.endMicroStep; split <;> rfl
@[simp] theorem State.endMicroStep_count (inp : HostInput) (s : State) : (s.endMicroStep inp).count = s.count := by unfold State.endMicroStep; split <;> rfl
@[simp] theorem State.endMicroStep_npad (inp : HostInput) (s : State) : (s.endMicroStep inp).npad = s.npad := by unfold State.endMicroStep; split <;> rfl
@[simp] theorem State.endMicroStep_red (inp : HostInput) (s : State) : (s.endMicroStep inp).red = s.red := by unfold State.endMicroStep; split <;> rfl
@[simp] theorem State.endMicroStep_green (inp : HostInput) (s : State) : (s.endMicroStep inp).green = s.green := by unfold State.endMicroStep; split <;> rfl
@[simp] theorem State.endMicroStep_blue (inp : HostInput) (s : State) : (s.endMicroStep inp).blue = s.blue := by unfold State.endMicroStep; split <;> rfl
@[simp] theorem State.endMicroStep_idx (inp : HostInput) (s : State) : (s.endMicroStep inp).idx = s.idx := by unfold State.endMicroStep; split <;> rfl
@[simp] theorem State.endMicroStep_bit (inp : HostInput) (s : State) : (s.endMicroStep inp).bit = s.bit := by unfold State.endMicroStep; split <;> rfl
@[simp] theorem State.endMicroStep_sub (inp : HostInput) (s : State) : (s.endMicroStep inp).sub = s.sub := by unfold State.endMicroStep; split <;> rfl
@[simp] theorem State.endMicroStep_evt (inp : HostInput) (s : State) : (s.endMicroStep inp).evt = s.evt := by unfold State.endMicroStep; split <;> rfl
@[simp] theorem State.endMicroStep_wire (inp : HostInput) (s : State) : (s.endMicroStep inp).wire = s.wire := by unfold State.endMicroStep; split <;> rfl
@[simp] theorem State.endMicroStep_draws (inp : HostInput) (s : State) : (s.endMicroStep inp).draws = s.draws := by unfold State.endMicroStep; split <;> rfl
@[simp] theorem State.endMicroStep_cmds (inp : HostInput) (s : State) : (s.endMicroStep inp).cmds = s.cmds := by unfold State.endMicroStep; split <;> rfl
@[simp] theorem State.endMicroStep_script (inp : HostInput) (s : State) : (s.endMicroStep inp).script = s.script := by unfold State.endMicroStep; split <;> rfl

@[simp] theorem State.performAll_cfg (es : List PinEvent) (s : State) : (s.performAll es).cfg = s.cfg := by induction es generalizing s <;> simp_all [State.performAll]
@[simp] theorem State.performAll_busy (es : List PinEvent) (s : State) : (s.performAll es).busy = s.busy := by induction es generalizing s <;> simp_all [State.performAll]
@[simp] theorem State.performAll_fault (es : List PinEvent) (s : State) : (s.performAll es).fault = s.fault := by induction es generalizing s <;> simp_all [State.performAll]
@[simp] theorem State.performAll_op (es : List PinEvent) (s : State) : (s.performAll es).op = s.op := by induction es generalizing s <;> simp_all [State.performAll]
@[simp] theorem State.performAll_bright5 (es : List PinEvent) (s : State) : (s.performAll es).bright5 = s.bright5 := by induction es generalizing s <;> simp_all [State.performAll]
@[simp] theorem State.performAll_count (es : List PinEvent) (s : State) : (s.performAll es).count = s.count := by induction es generalizing s <;> simp_all [State.performAll]
@[simp] theorem State.performAll_npad (es : List PinEvent) (s : State) : (s.performAll es).npad = s.npad := by induction es generalizing s <;> simp_all [State.performAll]
@[simp] theorem State.performAll_red (es : List PinEvent) (s : State) : (s.performAll es).red = s.red := by induction es generalizing s <;> simp_all [State.performAll]
@[simp] theorem State.performAll_green (es : List PinEvent) (s : State) : (s.performAll es).green = s.green := by induction es generalizing s <;> simp_all [State.performAll]
@[simp] theorem State.performAll_blue (es : List PinEvent) (s : State) : (s.performAll es).blue = s.blue := by induction es generalizing s <;> simp_all [State.performAll]
@[simp] theorem State.performAll_idx (es : List PinEvent) (s : State) : (s.performAll es).idx = s.idx := by induction es generalizing s <;> simp_all [State.performAll]
@[simp] theorem State.performAll_bit (es : List PinEvent) (s : State) : (s.performAll es).bit = s.bit := by induction es generalizing s <;> simp_all [State.performAll]
@[simp] theorem State.performAll_sub (es : List PinEvent) (s : State) : (s.performAll es).sub = s.sub := by induction es generalizing s <;> simp_all [State.performAll]
@[simp] theorem State.performAll_pix (es : List PinEvent) (s : State) : (s.performAll es).pix = s.pix := by induction es generalizing s <;> simp_all [State.performAll]
@[simp] theorem State.performAll_draws (es : List PinEvent) (s : State) : (s.performAll es).draws = s.draws := by induction es generalizing s <;> simp_all [State.performAll]
@[simp] theorem State.performAll_cmds (es : List PinEvent) (s : State) : (s.performAll es).cmds = s.cmds := by induction es generalizing s <;> simp_all [State.performAll]
@[simp] theorem State.performAll_script (es : List PinEvent) (s : State) : (s.performAll es).script = s.script := by induction es generalizing s <;> simp_all [State.performAll]

end Sys2Proof.Machine
end

