-- ==== Sys2Proof/Laws/Events.lean ====
section
/-! SUPPORT. What a list of pin events does to the latches, TX and the two logs (45_bit_transfer.md R140 to R144). -/

namespace Sys2Proof.Machine

/-- The latches after a list of events. -/
def Pins.afterAll (es : List PinEvent) (p : Pins) : Pins := es.foldl (fun p e => p.after e) p

/-- `TX` after a list of events. -/
def txAfterAll (es : List PinEvent) (tx : Bool) : Bool := es.foldl (fun t e => txAfter e t) tx

@[simp] theorem Pins.afterAll_nil (p : Pins) : p.afterAll [] = p := rfl
@[simp] theorem Pins.afterAll_cons (e : PinEvent) (es : List PinEvent) (p : Pins) :
    p.afterAll (e :: es) = (p.after e).afterAll es := rfl
@[simp] theorem Pins.afterAll_append (es es' : List PinEvent) (p : Pins) :
    p.afterAll (es ++ es') = (p.afterAll es).afterAll es' := List.foldl_append
@[simp] theorem txAfterAll_nil (tx : Bool) : txAfterAll [] tx = tx := rfl
@[simp] theorem txAfterAll_cons (e : PinEvent) (es : List PinEvent) (tx : Bool) :
    txAfterAll (e :: es) tx = txAfterAll es (txAfter e tx) := rfl
@[simp] theorem txAfterAll_append (es es' : List PinEvent) (tx : Bool) :
    txAfterAll (es ++ es') tx = txAfterAll es' (txAfterAll es tx) := List.foldl_append

@[simp] theorem sampledFrom_nil (p : Pins) : sampledFrom p [] = [] := rfl
@[simp] theorem sampledFrom_cons (p : Pins) (e : PinEvent) (es : List PinEvent) :
    sampledFrom p (e :: es) = sampledBits e p ++ sampledFrom (p.after e) es := rfl
@[simp] theorem sampledFrom_append (p : Pins) (es es' : List PinEvent) :
    sampledFrom p (es ++ es') = sampledFrom p es ++ sampledFrom (p.afterAll es) es' := by
  induction es generalizing p with
  | nil => rfl
  | cons e es ih => simp [ih]

theorem Pins.replay_eq (es : List PinEvent) : Pins.replay es = Pins.reset.afterAll es := rfl

@[simp] theorem State.performAll_nil (s : State) : s.performAll [] = s := rfl
@[simp] theorem State.performAll_cons (e : PinEvent) (es : List PinEvent) (s : State) :
    s.performAll (e :: es) = (s.emit e).performAll es := rfl
theorem State.performAll_append (es es' : List PinEvent) (s : State) :
    s.performAll (es ++ es') = (s.performAll es).performAll es' := List.foldl_append

/-- A list of events, all at once. -/
theorem State.performAll_eq (es : List PinEvent) (s : State) :
    s.performAll es =
      { s with
        pins := s.pins.afterAll es, tx := txAfterAll es s.tx, evt := s.evt ++ es,
        wire := s.wire ++ sampledFrom s.pins es } := by
  induction es generalizing s with
  | nil => simp
  | cons e es ih => rw [State.performAll_cons, ih]; simp [State.emit]

/-! ### Bits and bytes -/

/-- A bit transfer leaves the data line at the bit and the clock low. -/
@[simp] theorem Pins.afterAll_xferBit (b : Bool) (p : Pins) :
    p.afterAll (xferBit b) = { p with datLvl := b, clkLvl := false } := rfl

@[simp] theorem txAfterAll_xferBit (b tx : Bool) : txAfterAll (xferBit b) tx = true := rfl

/-- A bit transfer on configured lines puts exactly its bit on `WIRE`. -/
@[simp] theorem sampledFrom_xferBit (b : Bool) (p : Pins) :
    sampledFrom p (xferBit b) = if p.configured then [b] else [] := by
  cases p with
  | mk a _ c _ => cases a <;> cases c <;> rfl

theorem Pins.afterAll_bits (bs : List Bool) (p : Pins) :
    p.afterAll (bs.flatMap xferBit) =
      { p with datLvl := bs.getLastD p.datLvl, clkLvl := if bs = [] then p.clkLvl else false } := by
  induction bs generalizing p with
  | nil => simp
  | cons b bs ih =>
    rw [List.flatMap_cons, Pins.afterAll_append, Pins.afterAll_xferBit, ih]
    cases bs <;> simp [List.getLast?_cons]

theorem txAfterAll_bits (bs : List Bool) (tx : Bool) :
    txAfterAll (bs.flatMap xferBit) tx = (tx || decide (bs ≠ [])) := by
  induction bs generalizing tx with
  | nil => simp
  | cons b bs ih => simp [List.flatMap_cons, ih]

theorem sampledFrom_bits (bs : List Bool) (p : Pins) :
    sampledFrom p (bs.flatMap xferBit) = if p.configured then bs else [] := by
  induction bs generalizing p with
  | nil => simp
  | cons b bs ih =>
    simp only [List.flatMap_cons, sampledFrom_append, sampledFrom_xferBit, Pins.afterAll_xferBit, ih]
    cases h : p.configured <;> simp_all [Pins.configured]

@[simp] theorem byteBits_length (v : Byte) : (byteBits v).length = 8 := rfl
@[simp] theorem byteBits_ne_nil (v : Byte) : byteBits v ≠ [] := by simp [byteBits]
@[simp] theorem xferByte_length (v : Byte) : (xferByte v).length = 24 := rfl

theorem byteBits_zero : byteBits 0 = List.replicate 8 false := by decide

theorem flatMap_xferByte (vs : List Byte) : vs.flatMap xferByte = (vs.flatMap byteBits).flatMap xferBit := by
  rw [List.flatMap_assoc]
  rfl

/-- The events of a byte transfer, all at once. -/
theorem State.performAll_xferByte (v : Byte) (s : State) :
    s.performAll (xferByte v) =
      { s with
        pins := { s.pins with datLvl := v.getLsbD 0, clkLvl := false }, tx := true, evt := s.evt ++ xferByte v,
        wire := s.wire ++ (if s.configured then byteBits v else []) } := by
  rw [State.performAll_eq, xferByte, Pins.afterAll_bits, txAfterAll_bits, sampledFrom_bits]
  simp [byteBits, State.configured]

end Sys2Proof.Machine
end

