-- ==== Sys2Proof/Laws/Step.lean ====
section
/-! SUPPORT. What one step does: the interface's step over harmless inputs, and the pin-event step by SUB (45_bit_transfer.md R150 to R153). -/

namespace Sys2Proof.Machine

/-! ### Runs -/

theorem run_zero (s : State) : run 0 s = .next s := rfl

theorem run_step {s t : State} (h : step s = .next t) (k : Nat) : run (k + 1) s = run k t := by
  simp [run, h]

theorem run_one {s t : State} (h : step s = .next t) : run 1 s = .next t := by
  rw [run_step h 0, run_zero]

theorem run_add {a : Nat} {s t : State} (h : run a s = .next t) (b : Nat) : run (a + b) s = run b t := by
  induction a generalizing s with
  | zero => cases h; simp
  | succ a ih =>
    rw [show a + 1 + b = (a + b) + 1 by omega]
    simp only [run] at h ⊢
    cases hs : step s with
    | next u => rw [hs] at h; exact ih h
    | fault r => rw [hs] at h; cases h
    | refused r => rw [hs] at h; cases h

theorem run_trans {a b : Nat} {s t u : State} (h : run a s = .next t) (h' : run b t = .next u) :
    run (a + b) s = .next u := by rw [run_add h, h']

/-! ### Inputs -/

@[simp] theorem Memory.writeAll_nil (m : List Host.Cell) : Memory.writeAll m [] = m := rfl

theorem State.input_harmless {s : State} (h : s.uninterrupted = true) :
    s.input.rst = false ∧ s.input.pixWrites = [] := by
  cases hs : s.script with
  | nil => simp [State.input, hs, HostInput.quiet]
  | cons i is =>
    simp only [State.uninterrupted, hs, List.all_cons, Bool.and_eq_true, HostInput.harmless] at h
    simpa [State.input, hs] using h.1

theorem State.input_calm {s : State} (h : s.undisturbed = true) :
    s.input.rst = false ∧ s.input.pixWrites = [] ∧ s.input.gpioCfgFail = false := by
  cases hs : s.script with
  | nil => simp [State.input, hs, HostInput.quiet]
  | cons i is =>
    simp only [State.undisturbed, hs, List.all_cons, Bool.and_eq_true, HostInput.calm, HostInput.harmless] at h
    simp only [State.input, hs, List.headD_cons]
    simp_all

theorem State.uninterrupted_of_undisturbed {s : State} (h : s.undisturbed = true) : s.uninterrupted = true := by
  simp only [State.undisturbed, State.uninterrupted, List.all_eq_true, HostInput.calm, Bool.and_eq_true] at *
  exact fun x hx => (h x hx).1

theorem all_drop {α : Type} {p : α → Bool} {l : List α} (n : Nat) (h : l.all p = true) : (l.drop n).all p = true := by
  simp only [List.all_eq_true] at *
  exact fun x hx => h x (List.mem_of_mem_drop hx)

theorem State.uninterrupted_drop {s : State} (n : Nat) (h : s.uninterrupted = true) :
    (s.script.drop n).all HostInput.harmless = true := all_drop n h

theorem State.undisturbed_drop {s : State} (n : Nat) (h : s.undisturbed = true) :
    (s.script.drop n).all HostInput.calm = true := all_drop n h

/-- A step whose inputs write nothing is the block's micro-step with the inputs used up. -/
theorem step_of_no_writes {s : State} (h : s.input.pixWrites = []) :
    step s = (s.dropInputs 1).blockStep s.input := by
  have hb : s.beginMicroStep s.input = s.dropInputs 1 := by
    simp only [State.beginMicroStep, State.dropInputs, h, Memory.writeAll_nil, List.drop_one]
    split <;> rfl
  have he : ∀ o : Host.Outcome State Fault Refusal, finishMicroStep s.input o = o := by
    intro o
    cases o with
    | next t => simp [finishMicroStep, State.endMicroStep, State.hostWrites, h]
    | fault r => rfl
    | refused r => rfl
  simp [step, State.microStep, HostInput.writesLegal, h, hb, he]

/-! ### What pending, byteIndex, item, len, fetchDue read -/

theorem State.fetchIfDue_of_none {s : State} (h : s.fetchDue = none) : s.fetchIfDue = s := by
  simp [State.fetchIfDue, h]

theorem State.fetchDue_of_sub {s : State} (h : s.sub ≠ 0) : s.fetchDue = none :=
  if_neg fun hc => h hc.2.2.1

theorem State.fetchDue_of_bit {s : State} (h : s.bit ≠ 0) : s.fetchDue = none :=
  if_neg fun hc => h hc.2.1

@[simp] theorem State.fetchDue_dropInputs (n : Nat) (s : State) : (s.dropInputs n).fetchDue = s.fetchDue := rfl
@[simp] theorem State.pending_dropInputs (n : Nat) (s : State) : (s.dropInputs n).pending = s.pending := rfl
@[simp] theorem State.len_dropInputs (n : Nat) (s : State) : (s.dropInputs n).len = s.len := rfl
@[simp] theorem State.byteIndex_dropInputs (n : Nat) (s : State) : (s.dropInputs n).byteIndex = s.byteIndex := rfl
@[simp] theorem State.byteAt_dropInputs (n : Nat) (s : State) (a : Nat) : (s.dropInputs n).byteAt a = s.byteAt a := rfl
theorem State.fetchIfDue_dropInputs (n : Nat) (s : State) :
    (s.dropInputs n).fetchIfDue = s.fetchIfDue.dropInputs n := by
  simp only [State.fetchIfDue, State.fetchDue_dropInputs]
  cases s.fetchDue <;> rfl

/-- A wire format's arm of exec is the step of its current byte. -/
theorem exec_of_frame {f : Instr} (h : f.isCommand = false) (s : State) :
    exec f s = s.byteStep (frameByte f s.byteIndex) := by
  cases f <;> first | rfl | simp [Instr.isCommand] at h

/-- The position is only ever in a wire format. -/
theorem State.pending_frame_isCommand {s : State} {f : Instr} (h : s.pending = .frame f) : f.isCommand = false := by
  unfold State.pending at h
  repeat' split at h
  all_goals first | (injection h with h; subst h; rfl) | nomatch h

/-! ### The step of a busy block -/

theorem step_busy {s : State} (hw : s.input.pixWrites = []) (hr : s.input.rst = false) (hb : s.busy = true)
    (hf : s.fault = false) : step s = (s.dropInputs 1).busyStep s.input := by
  rw [step_of_no_writes hw]
  simp [State.blockStep, hr, hb, hf]

/-- The step of a busy block in a wire format. -/
theorem step_frame {s : State} {f : Instr} (hw : s.input.pixWrites = []) (hr : s.input.rst = false)
    (hb : s.busy = true) (hf : s.fault = false) (hp : s.fetchIfDue.pending = .frame f) :
    step s = (s.fetchIfDue.dropInputs 1).byteStep (frameByte f s.fetchIfDue.byteIndex) := by
  rw [step_busy hw hr hb hf, State.busyStep, State.fetchIfDue_dropInputs]
  simp only [State.pending_dropInputs, hp]
  rw [exec_of_frame (State.pending_frame_isCommand hp)]
  simp

/-- The step of a busy block at a `CfgItem`. -/
theorem step_cfgItem {s : State} (hw : s.input.pixWrites = []) (hr : s.input.rst = false) (hb : s.busy = true)
    (hf : s.fault = false) (hp : s.fetchIfDue.pending = .cfgItem) :
    step s = .next ((s.fetchIfDue.dropInputs 1).cfgItemStep (s.input.cfgFails s.cfg)) := by
  rw [step_busy hw hr hb hf, State.busyStep, State.fetchIfDue_dropInputs]
  simp only [State.pending_dropInputs, hp]
  rfl

theorem byteStep_sub0 {s : State} (v : Byte) (hb : s.busy = true) (hf : s.fault = false) (h : s.sub = 0) :
    s.byteStep v = .next ((s.emit (.setD (v.getLsbD (7 - s.bit.toNat)))).setPos s.bit 1) := by
  simp [State.byteStep, hb, hf, h]

theorem byteStep_sub1 {s : State} (v : Byte) (hb : s.busy = true) (hf : s.fault = false) (h : s.sub = 1) :
    s.byteStep v = .next ((s.emit (.setC true)).setPos s.bit 2) := by
  simp [State.byteStep, hb, hf, h]

theorem byteStep_sub2 {s : State} (v : Byte) (hb : s.busy = true) (hf : s.fault = false) (h : s.sub = 2)
    (h7 : s.bit ≠ 7) : s.byteStep v = .next ((s.emit (.setC false)).setPos (s.bit + 1) 0) := by
  simp only [State.byteStep, hb, hf, h, if_neg h7]
  rfl

theorem byteStep_sub2_last {s : State} (v : Byte) (hb : s.busy = true) (hf : s.fault = false) (h : s.sub = 2)
    (h7 : s.bit = 7) : s.byteStep v = .next ((s.emit (.setC false)).setPos 0 0).finishItem := by
  simp [State.byteStep, hb, hf, h, h7]

/-- A `Byte` item's step is one pin event and a move of the position. -/
theorem byteStep_cases {s t : State} {v : Byte} (h : s.byteStep v = .next t) (hb : s.busy = true)
    (hf : s.fault = false) :
    (s.sub = 0 ∧ t = (s.emit (.setD (v.getLsbD (7 - s.bit.toNat)))).setPos s.bit 1)
      ∨ (s.sub = 1 ∧ t = (s.emit (.setC true)).setPos s.bit 2)
      ∨ (s.sub = 2 ∧ s.bit ≠ 7 ∧ t = (s.emit (.setC false)).setPos (s.bit + 1) 0)
      ∨ (s.sub = 2 ∧ s.bit = 7 ∧ t = ((s.emit (.setC false)).setPos 0 0).finishItem) := by
  have hc : ∀ x : BitVec 2, x = 0 ∨ x = 1 ∨ x = 2 ∨ x = 3 := by decide
  obtain hs | hs | hs | hs := hc s.sub
  · rw [byteStep_sub0 v hb hf hs] at h; injection h with h; exact .inl ⟨hs, h.symm⟩
  · rw [byteStep_sub1 v hb hf hs] at h; injection h with h; exact .inr (.inl ⟨hs, h.symm⟩)
  · by_cases h7 : s.bit = 7
    · rw [byteStep_sub2_last v hb hf hs h7] at h; injection h with h; exact .inr (.inr (.inr ⟨hs, h7, h.symm⟩))
    · rw [byteStep_sub2 v hb hf hs h7] at h; injection h with h; exact .inr (.inr (.inl ⟨hs, h7, h.symm⟩))
  · simp [State.byteStep, hb, hf, hs] at h

end Sys2Proof.Machine
end

