-- ==== Sys2Proof/Laws/Byte.lean ====
section
/-! SUPPORT. Twenty-four steps send a byte (45_bit_transfer.md R144, R152, R154). -/

namespace Sys2Proof.Machine

/-- What a byte in flight needs of the state it starts in: a busy, unfaulted block left alone, in a wire format. -/
structure Sending (f : Instr) (s : State) : Prop where
  calm : s.uninterrupted = true
  busy : s.busy = true
  noFault : s.fault = false
  pending : s.pending = .frame f

/-- Events, moves of `BIT` and `SUB` and used inputs leave a byte in flight. -/
theorem Sending.carry {f : Instr} {s : State} (h : Sending f s) (es : List PinEvent) (bit : BitVec 3) (sub : BitVec 2)
    (n : Nat) : Sending f (((s.performAll es).setPos bit sub).dropInputs n) where
  calm := by simpa [State.uninterrupted] using State.uninterrupted_drop n h.calm
  busy := by simpa using h.busy
  noFault := by simpa using h.noFault
  pending := by simpa [State.pending] using h.pending

@[simp] theorem State.byteIndex_carry (s : State) (es : List PinEvent) (bit : BitVec 3) (sub : BitVec 2) (n : Nat) :
    (((s.performAll es).setPos bit sub).dropInputs n).byteIndex = s.byteIndex := by
  simp [State.byteIndex]

/-- A step in the middle of a byte, where no pixel fetch can be due. -/
theorem Sending.step {f : Instr} {s : State} (h : Sending f s) (hd : s.fetchDue = none) :
    step s = (s.dropInputs 1).byteStep (frameByte f s.byteIndex) := by
  have hi := State.input_harmless h.calm
  have he := State.fetchIfDue_of_none hd
  rw [step_frame hi.2 hi.1 h.busy h.noFault (by rw [he]; exact h.pending), he]

/-- The second and third pin events of a bit. -/
theorem Sending.run_pulse {f : Instr} {s : State} (h : Sending f s) (hs : s.sub = 1) :
    run 2 s = .next (
      if s.bit = 7 then
        (((s.performAll [.setC true, .setC false]).setPos 0 0).dropInputs 2).finishItem
      else ((s.performAll [.setC true, .setC false]).setPos (s.bit + 1) 0).dropInputs 2) := by
  have h1 : Machine.step s = .next (((s.performAll [.setC true]).setPos s.bit 2).dropInputs 1) := by
    rw [h.step (State.fetchDue_of_sub (by simp [hs])), byteStep_sub1 (s := s.dropInputs 1) _ h.busy h.noFault hs]
    rfl
  rw [run_step h1 1]
  have h2 := h.carry [.setC true] s.bit 2 1
  have h3 := h2.step (State.fetchDue_of_sub (by simp))
  by_cases h7 : s.bit = 7
  · rw [byteStep_sub2_last _ (by simpa using h.busy) (by simpa using h.noFault) (by simp) (by simpa using h7)] at h3
    rw [run_one h3, if_pos h7]
    simp [State.emit, State.setPos, State.dropInputs, State.performAll_eq]
  · rw [byteStep_sub2 _ (by simpa using h.busy) (by simpa using h.noFault) (by simp) (by simpa using h7)] at h3
    rw [run_one h3, if_neg h7]
    simp [State.emit, State.setPos, State.dropInputs, State.performAll_eq]

/-- The first pin event of a bit, with the pixel fetch if one is due. -/
theorem step_setD {s : State} {f : Instr} (hu : s.uninterrupted = true) (hb : s.busy = true) (hf : s.fault = false)
    (hs : s.sub = 0) (hp : s.fetchIfDue.pending = .frame f) :
    step s = .next
      (((s.fetchIfDue.performAll
        [.setD ((frameByte f s.fetchIfDue.byteIndex).getLsbD (7 - s.bit.toNat))]).setPos s.bit 1).dropInputs 1) := by
  have hi := State.input_harmless hu
  rw [step_frame hi.2 hi.1 hb hf hp, byteStep_sub0 _ (by simpa using hb) (by simpa using hf) (by simpa using hs)]
  simp [State.emit, State.setPos, State.dropInputs, State.performAll_eq]

/-- Three steps: a bit goes out, a pixel fetched first if one is due. -/
theorem run_bit {s : State} {f : Instr} (hs : s.sub = 0) (h : Sending f s.fetchIfDue) :
    run 3 s = .next (
      if s.bit = 7 then
        (((s.fetchIfDue.performAll
          (xferBit ((frameByte f s.fetchIfDue.byteIndex).getLsbD (7 - s.bit.toNat)))).setPos 0 0).dropInputs 3).finishItem
      else
        ((s.fetchIfDue.performAll
          (xferBit ((frameByte f s.fetchIfDue.byteIndex).getLsbD (7 - s.bit.toNat)))).setPos (s.bit + 1) 0).dropInputs 3) := by
  have hu : s.uninterrupted = true := by simpa [State.uninterrupted] using h.calm
  rw [run_step (step_setD hu (by simpa using h.busy) (by simpa using h.noFault) hs h.pending) 2]
  rw [(h.carry _ s.bit 1 1).run_pulse rfl]
  by_cases h7 : s.bit = 7
  · rw [if_pos (by simpa using h7), if_pos h7]
    simp [State.setPos, State.dropInputs, State.performAll_eq, xferBit]
  · rw [if_neg (by simpa using h7), if_neg h7]
    simp [State.setPos, State.dropInputs, State.performAll_eq, xferBit]

/-- A bit after the first of its byte, the events so far in view. -/
theorem Sending.run_next_bit {f : Instr} {s : State} {v : Byte} (h : Sending f s) (hv : frameByte f s.byteIndex = v)
    (es : List PinEvent) (n : Nat) (b : BitVec 3) (h0 : b ≠ 0) :
    run 3 (((s.performAll es).setPos b 0).dropInputs n) = .next (
      if b = 7 then
        (((s.performAll (es ++ xferBit (v.getLsbD (7 - b.toNat)))).setPos 0 0).dropInputs (n + 3)).finishItem
      else ((s.performAll (es ++ xferBit (v.getLsbD (7 - b.toNat)))).setPos (b + 1) 0).dropInputs (n + 3)) := by
  have hc := h.carry es b 0 n
  have he := State.fetchIfDue_of_none (s := ((s.performAll es).setPos b 0).dropInputs n)
    (State.fetchDue_of_bit (by simpa using h0))
  have hb := run_bit (f := f) (s := ((s.performAll es).setPos b 0).dropInputs n) rfl (by rw [he]; exact hc)
  rw [he, State.byteIndex_carry, hv] at hb
  rw [hb]
  by_cases h7 : b = 7
  · rw [if_pos (by simpa using h7), if_pos h7]
    simp [State.setPos, State.dropInputs, State.performAll_eq]
  · rw [if_neg (by simpa using h7), if_neg h7]
    simp [State.setPos, State.dropInputs, State.performAll_eq]

/-- Twenty-four steps: a byte goes out, its pixel fetched first if one is due, and its item is finished. -/
theorem run_byte {s : State} {f : Instr} (hbit : s.bit = 0) (hs : s.sub = 0) (h : Sending f s.fetchIfDue) :
    run 24 s = .next
      ((s.fetchIfDue.performAll (xferByte (frameByte f s.fetchIfDue.byteIndex))).dropInputs 24).finishItem := by
  generalize hv : frameByte f s.fetchIfDue.byteIndex = v
  have h0 := run_bit hs h
  rw [hv, hbit, if_neg (by decide)] at h0
  have k1 := h.run_next_bit hv (xferBit (v.getLsbD 7)) 3 1 (by decide)
  have k2 := h.run_next_bit hv (xferBit (v.getLsbD 7) ++ xferBit (v.getLsbD 6)) 6 2 (by decide)
  have k3 := h.run_next_bit hv ((xferBit (v.getLsbD 7) ++ xferBit (v.getLsbD 6)) ++ xferBit (v.getLsbD 5)) 9 3
    (by decide)
  have k4 := h.run_next_bit hv (((xferBit (v.getLsbD 7) ++ xferBit (v.getLsbD 6)) ++ xferBit (v.getLsbD 5))
    ++ xferBit (v.getLsbD 4)) 12 4 (by decide)
  have k5 := h.run_next_bit hv ((((xferBit (v.getLsbD 7) ++ xferBit (v.getLsbD 6)) ++ xferBit (v.getLsbD 5))
    ++ xferBit (v.getLsbD 4)) ++ xferBit (v.getLsbD 3)) 15 5 (by decide)
  have k6 := h.run_next_bit hv (((((xferBit (v.getLsbD 7) ++ xferBit (v.getLsbD 6)) ++ xferBit (v.getLsbD 5))
    ++ xferBit (v.getLsbD 4)) ++ xferBit (v.getLsbD 3)) ++ xferBit (v.getLsbD 2)) 18 6 (by decide)
  have k7 := h.run_next_bit hv ((((((xferBit (v.getLsbD 7) ++ xferBit (v.getLsbD 6)) ++ xferBit (v.getLsbD 5))
    ++ xferBit (v.getLsbD 4)) ++ xferBit (v.getLsbD 3)) ++ xferBit (v.getLsbD 2)) ++ xferBit (v.getLsbD 1)) 21 7
    (by decide)
  rw [if_neg (by decide)] at k1 k2 k3 k4 k5 k6
  rw [if_pos rfl] at k7
  have all := run_trans (run_trans (run_trans (run_trans (run_trans (run_trans (run_trans h0 k1) k2) k3) k4) k5) k6) k7
  rw [show (24 : Nat) = 3 + 3 + 3 + 3 + 3 + 3 + 3 + 3 by rfl, all]
  simp [State.setPos, State.dropInputs, State.performAll_eq, xferByte, byteBits, hbit, hs]

end Sys2Proof.Machine
end

