-- ==== Sys2Proof/Laws/Position.lean ====
section
/-! SUPPORT. What the position can point at, and where (45_bit_transfer.md R146; 44_write.md R132). -/

namespace Sys2Proof.Machine

/-- The eight operation codes. -/
theorem opCode_cases (o : BitVec 3) :
    o = 0 ∨ o = 1 ∨ o = 2 ∨ o = 3 ∨ o = 4 ∨ (o = 5 ∨ o = 6 ∨ o = 7) := by
  revert o; decide

/-! ### By operation -/

theorem State.len_init {s : State} (h : s.op = 0) : s.len = 1 := by rw [State.len, h]; rfl
theorem State.len_start {s : State} (h : s.op = 1) : s.len = 5 := by rw [State.len, h]; rfl
theorem State.len_color {s : State} (h : s.op = 2) : s.len = 4 := by rw [State.len, h]; rfl
theorem State.len_end {s : State} (h : s.op = 3) : s.len = s.npad + 1 := by rw [State.len, h]; rfl
theorem State.len_write {s : State} (h : s.op = 4) : s.len = 5 + 4 * s.count + s.npad + 1 := by rw [State.len, h]; rfl
theorem State.len_reserved {s : State} (h : s.op = 5 ∨ s.op = 6 ∨ s.op = 7) : s.len = 0 := by
  obtain h | h | h := h <;> (rw [State.len, h]; rfl)

theorem State.pending_init {s : State} (h : s.op = 0) : s.pending = if s.idx = 0 then .cfgItem else .nothing := by
  rw [State.pending, h]; rfl
theorem State.pending_start {s : State} (h : s.op = 1) : s.pending =
    if s.idx = 0 then .cfgItem else if s.idx < 5 then .frame .wireStartFrame else .nothing := by
  rw [State.pending, h]; rfl
theorem State.pending_color {s : State} (h : s.op = 2) : s.pending =
    if s.idx < 4 then .frame (.wirePixel s.bright5 s.blue s.green s.red) else .nothing := by
  rw [State.pending, h]; rfl
theorem State.pending_end {s : State} (h : s.op = 3) : s.pending =
    if s.idx < s.npad then .frame .wireEndPad else if s.idx = s.npad then .cfgItem else .nothing := by
  rw [State.pending, h]; rfl
theorem State.pending_write {s : State} (h : s.op = 4) : s.pending =
    if s.idx = 0 then .cfgItem
    else if s.idx < 5 then .frame .wireStartFrame
    else if s.idx < 5 + 4 * s.count then .frame (.wirePixel s.bright5 s.blue s.green s.red)
    else if s.idx < 5 + 4 * s.count + s.npad then .frame .wireEndPad
    else if s.idx = 5 + 4 * s.count + s.npad then .cfgItem
    else .nothing := by
  rw [State.pending, h]; rfl
theorem State.pending_reserved {s : State} (h : s.op = 5 ∨ s.op = 6 ∨ s.op = 7) : s.pending = .nothing := by
  obtain h | h | h := h <;> (rw [State.pending, h]; rfl)

theorem State.byteIndex_start {s : State} (h : s.op = 1) : s.byteIndex = s.idx - 1 := by rw [State.byteIndex, h]; rfl
theorem State.byteIndex_color {s : State} (h : s.op = 2) : s.byteIndex = s.idx := by rw [State.byteIndex, h]; rfl
theorem State.byteIndex_write {s : State} (h : s.op = 4) :
    s.byteIndex = if s.idx < 5 then s.idx - 1 else (s.idx - 5) % 4 := by rw [State.byteIndex, h]; rfl

/-! ### What leaves the position's reading alone -/

@[simp] theorem State.len_emit (e : PinEvent) (s : State) : (s.emit e).len = s.len := rfl
@[simp] theorem State.len_setPos (bit : BitVec 3) (sub : BitVec 2) (s : State) : (s.setPos bit sub).len = s.len := rfl
@[simp] theorem State.len_beginMicroStep (inp : HostInput) (s : State) : (s.beginMicroStep inp).len = s.len := by
  simp [State.len]
@[simp] theorem State.len_endMicroStep (inp : HostInput) (s : State) : (s.endMicroStep inp).len = s.len := by
  simp [State.len]
@[simp] theorem State.pending_emit (e : PinEvent) (s : State) : (s.emit e).pending = s.pending := rfl
@[simp] theorem State.pending_setPos (bit : BitVec 3) (sub : BitVec 2) (s : State) : (s.setPos bit sub).pending = s.pending := rfl
@[simp] theorem State.pending_beginMicroStep (inp : HostInput) (s : State) : (s.beginMicroStep inp).pending = s.pending := by
  simp [State.pending]
@[simp] theorem State.pending_endMicroStep (inp : HostInput) (s : State) : (s.endMicroStep inp).pending = s.pending := by
  simp [State.pending]
@[simp] theorem State.byteIndex_emit (e : PinEvent) (s : State) : (s.emit e).byteIndex = s.byteIndex := rfl
@[simp] theorem State.byteIndex_setPos (bit : BitVec 3) (sub : BitVec 2) (s : State) : (s.setPos bit sub).byteIndex = s.byteIndex := rfl
@[simp] theorem State.byteIndex_beginMicroStep (inp : HostInput) (s : State) : (s.beginMicroStep inp).byteIndex = s.byteIndex := by
  simp [State.byteIndex]
@[simp] theorem State.byteIndex_endMicroStep (inp : HostInput) (s : State) : (s.endMicroStep inp).byteIndex = s.byteIndex := by
  simp [State.byteIndex]
@[simp] theorem State.len_finishItem (s : State) : s.finishItem.len = s.len := by simp [State.len]

/-! ### By what is pending -/

/-- A start frame is sent by START and by WRITE, in items 1 to 4. -/
structure AtStartFrame (s : State) : Prop where
  op : (s.op = 1 ∧ s.len = 5) ∨ (s.op = 4 ∧ s.len = 5 + 4 * s.count + s.npad + 1)
  low : 1 ≤ s.idx
  high : s.idx < 5
  byteIndex : s.byteIndex = s.idx - 1

/-- A packet is sent by COLOR, in items 0 to 3, and by WRITE, in its packets' items. -/
structure AtPixel (s : State) : Prop where
  place : (s.op = 2 ∧ s.len = 4 ∧ s.idx < 4 ∧ s.byteIndex = s.idx) ∨
    (s.op = 4 ∧ s.len = 5 + 4 * s.count + s.npad + 1 ∧ 5 ≤ s.idx ∧ s.idx < 5 + 4 * s.count
      ∧ s.byteIndex = (s.idx - 5) % 4)

/-- Padding is sent by END and by WRITE, before their last `CfgItem`. -/
structure AtPadding (s : State) : Prop where
  place : (s.op = 3 ∧ s.len = s.npad + 1 ∧ s.idx < s.npad) ∨
    (s.op = 4 ∧ s.len = 5 + 4 * s.count + s.npad + 1 ∧ 5 + 4 * s.count ≤ s.idx ∧ s.idx < 5 + 4 * s.count + s.npad)

/-- A `CfgItem` is the first item of INIT, START and WRITE and the last of INIT, END and WRITE. -/
structure AtCfgItem (s : State) : Prop where
  place : (s.op = 0 ∧ s.len = 1 ∧ s.idx = 0) ∨ (s.op = 1 ∧ s.len = 5 ∧ s.idx = 0)
    ∨ (s.op = 3 ∧ s.len = s.npad + 1 ∧ s.idx = s.npad)
    ∨ (s.op = 4 ∧ s.len = 5 + 4 * s.count + s.npad + 1 ∧ (s.idx = 0 ∨ s.idx = 5 + 4 * s.count + s.npad))

/-- Every wire format in flight stands at one of its places, with the latches' operands. -/
theorem State.pending_frame_cases {s : State} {f : Instr} (h : s.pending = .frame f) :
    (f = .wireStartFrame ∧ AtStartFrame s)
      ∨ (f = .wirePixel s.bright5 s.blue s.green s.red ∧ AtPixel s)
      ∨ (f = .wireEndPad ∧ AtPadding s) := by
  obtain ho | ho | ho | ho | ho | ho := opCode_cases s.op
  · rw [State.pending_init ho] at h
    split at h <;> cases h
  · rw [State.pending_start ho] at h
    split at h <;> (try split at h) <;> cases h
    exact .inl ⟨rfl, .inl ⟨ho, State.len_start ho⟩, by omega, by assumption, State.byteIndex_start ho⟩
  · rw [State.pending_color ho] at h
    split at h <;> cases h
    exact .inr (.inl ⟨rfl, ⟨.inl ⟨ho, State.len_color ho, by assumption, State.byteIndex_color ho⟩⟩⟩)
  · rw [State.pending_end ho] at h
    split at h <;> (try split at h) <;> cases h
    exact .inr (.inr ⟨rfl, ⟨.inl ⟨ho, State.len_end ho, by assumption⟩⟩⟩)
  · rw [State.pending_write ho] at h
    have hl := State.len_write ho
    have hx := State.byteIndex_write ho
    split at h
    · cases h
    split at h
    · cases h
      exact .inl ⟨rfl, .inr ⟨ho, hl⟩, by omega, by assumption, by rw [hx, if_pos (by assumption)]⟩
    split at h
    · cases h
      exact .inr (.inl ⟨rfl, ⟨.inr ⟨ho, hl, by omega, by assumption, by rw [hx, if_neg (by assumption)]⟩⟩⟩)
    split at h
    · cases h
      exact .inr (.inr ⟨rfl, ⟨.inr ⟨ho, hl, by omega, by assumption⟩⟩⟩)
    split at h <;> cases h
  · rw [State.pending_reserved ho] at h
    cases h

theorem State.pending_cfgItem_cases {s : State} (h : s.pending = .cfgItem) : AtCfgItem s := by
  obtain ho | ho | ho | ho | ho | ho := opCode_cases s.op
  · rw [State.pending_init ho] at h
    split at h <;> cases h
    exact ⟨.inl ⟨ho, State.len_init ho, by assumption⟩⟩
  · rw [State.pending_start ho] at h
    split at h <;> (try split at h) <;> cases h
    exact ⟨.inr (.inl ⟨ho, State.len_start ho, by assumption⟩)⟩
  · rw [State.pending_color ho] at h
    split at h <;> cases h
  · rw [State.pending_end ho] at h
    split at h <;> (try split at h) <;> cases h
    exact ⟨.inr (.inr (.inl ⟨ho, State.len_end ho, by assumption⟩))⟩
  · rw [State.pending_write ho] at h
    have hl := State.len_write ho
    repeat' split at h
    all_goals first
      | exact ⟨.inr (.inr (.inr ⟨ho, hl, .inl (by assumption)⟩))⟩
      | exact ⟨.inr (.inr (.inr ⟨ho, hl, .inr (by assumption)⟩))⟩
      | cases h
  · rw [State.pending_reserved ho] at h
    cases h

/-- The position points at nothing exactly when it is past the expansion. -/
theorem State.pending_nothing_iff {s : State} : s.pending = .nothing ↔ s.len ≤ s.idx := by
  obtain ho | ho | ho | ho | ho | ho := opCode_cases s.op
  · rw [State.pending_init ho, State.len_init ho]; split <;> simp <;> omega
  · rw [State.pending_start ho, State.len_start ho]; (repeat' split) <;> simp <;> omega
  · rw [State.pending_color ho, State.len_color ho]; split <;> simp <;> omega
  · rw [State.pending_end ho, State.len_end ho]; (repeat' split) <;> simp <;> omega
  · rw [State.pending_write ho, State.len_write ho]; (repeat' split) <;> simp <;> omega
  · rw [State.pending_reserved ho, State.len_reserved ho]; simp

end Sys2Proof.Machine
end

