-- ==== Sys2Proof/Laws/Walk.lean ====
section
/-! SUPPORT. How a command walks through the items of its expansion (45_bit_transfer.md R150 to R154). -/

namespace Sys2Proof.Machine

/-- The state `b` of an accepted command after the events `es`, with the position at the start of item `j` and `n`
inputs used up. -/
def State.along (b : State) (es : List PinEvent) (j n : Nat) : State :=
  { b with
    pins := b.pins.afterAll es, tx := txAfterAll es b.tx, evt := b.evt ++ es, wire := b.wire ++ sampledFrom b.pins es,
    idx := j, script := b.script.drop n }

/-- `b` with the position at the start of item `j`. -/
def State.setIdx (j : Nat) (b : State) : State := { b with idx := j }

/-- A busy, unfaulted block at the start of an item, left alone. -/
structure AtItem (b : State) : Prop where
  calm : b.uninterrupted = true
  busy : b.busy = true
  noFault : b.fault = false
  bit : b.bit = 0
  sub : b.sub = 0

/-- Steps of a list of items. -/
def stepsOf (its : List Item) : Nat := (its.map Item.steps).sum

@[simp] theorem stepsOf_nil : stepsOf [] = 0 := rfl
@[simp] theorem stepsOf_cons (it : Item) (its : List Item) : stepsOf (it :: its) = it.steps + stepsOf its := rfl
@[simp] theorem stepsOf_append (a b : List Item) : stepsOf (a ++ b) = stepsOf a + stepsOf b := by
  simp [stepsOf]
@[simp] theorem itemEvents_nil : itemEvents [] = [] := rfl
@[simp] theorem itemEvents_cons (it : Item) (its : List Item) : itemEvents (it :: its) = it.events ++ itemEvents its := by
  simp [itemEvents]
@[simp] theorem itemEvents_append (a b : List Item) : itemEvents (a ++ b) = itemEvents a ++ itemEvents b := by
  simp [itemEvents]

theorem AtItem.along {b : State} (h : AtItem b) (es : List PinEvent) (j n : Nat) : AtItem (b.along es j n) where
  calm := State.uninterrupted_drop n h.calm
  busy := h.busy
  noFault := h.noFault
  bit := h.bit
  sub := h.sub

theorem State.along_zero {b : State} (h : b.idx = 0) : b.along [] 0 0 = b := by
  cases b
  simp_all [State.along]

/-- A command's state after a run of bytes. -/
theorem State.along_bytes (b : State) (vs : List Byte) (v : Byte) (j n : Nat) :
    b.along ((vs ++ [v]).flatMap xferByte) j n =
      { b with
        pins := { b.pins with datLvl := v.getLsbD 0, clkLvl := false }, tx := true,
        evt := b.evt ++ (vs ++ [v]).flatMap xferByte,
        wire := b.wire ++ (if b.configured then (vs ++ [v]).flatMap byteBits else []), idx := j,
        script := b.script.drop n } := by
  have hl : ((vs ++ [v]).flatMap byteBits).getLastD b.pins.datLvl = v.getLsbD 0 := by simp [byteBits]
  have hn : (vs ++ [v]).flatMap byteBits ≠ [] := by simp
  rw [flatMap_xferByte]
  generalize (vs ++ [v]).flatMap byteBits = bits at *
  simp only [State.along, Pins.afterAll_bits, txAfterAll_bits, sampledFrom_bits, hl, State.configured, if_neg hn]
  simp only [ne_eq, hn, not_false_eq_true, decide_true, Bool.or_true]
  rfl

theorem State.pending_frame_of_item {s : State} {v : Byte} (h : s.item = some (.byte v)) :
    ∃ f, s.pending = .frame f ∧ frameByte f s.byteIndex = v := by
  unfold State.item at h
  split at h
  · cases h
  · next f hp => exact ⟨f, hp, by simpa using h⟩
  · cases h

theorem State.pending_cfg_of_item {s : State} (h : s.item = some .cfgItem) : s.pending = .cfgItem := by
  unfold State.item at h
  split at h
  · assumption
  · cases h
  · cases h

/-- One item, from its first step to its last, a pixel fetched first if one is due. -/
theorem AtItem.run_item {s : State} {it : Item} (h : AtItem s) (hit : s.fetchIfDue.item = some it)
    (hc : it = .cfgItem → s.input.gpioCfgFail = false) :
    run it.steps s = .next ((s.fetchIfDue.performAll it.events).dropInputs it.steps).finishItem := by
  cases it with
  | byte v =>
    obtain ⟨f, hp, hv⟩ := State.pending_frame_of_item hit
    have hs : Sending f s.fetchIfDue :=
      { calm := by simpa [State.uninterrupted] using h.calm, busy := by simpa using h.busy
        noFault := by simpa using h.noFault, pending := hp }
    have := run_byte h.bit h.sub hs
    rw [hv] at this
    exact this
  | cfgItem =>
    have hi := State.input_harmless h.calm
    have hp := State.pending_cfg_of_item hit
    have h1 := step_cfgItem hi.2 hi.1 h.busy h.noFault hp
    rw [HostInput.cfgFails, hc rfl, Bool.and_false] at h1
    rw [Item.steps, run_one h1]
    rfl

@[simp] theorem State.item_along (b : State) (es : List PinEvent) (j n : Nat) :
    (b.along es j n).item = (b.setIdx j).item := rfl
@[simp] theorem State.fetchDue_along (b : State) (es : List PinEvent) (j n : Nat) :
    (b.along es j n).fetchDue = (b.setIdx j).fetchDue := rfl

theorem State.fetchIfDue_along_some {b : State} {es : List PinEvent} {j n i : Nat}
    (h : (b.setIdx j).fetchDue = some i) : (b.along es j n).fetchIfDue = (b.pixelFetch i).along es j n := by
  simp only [State.fetchIfDue, State.fetchDue_along, h]
  rfl

theorem State.fetchIfDue_along_none {b : State} {es : List PinEvent} {j n : Nat}
    (h : (b.setIdx j).fetchDue = none) : (b.along es j n).fetchIfDue = b.along es j n := by
  simp only [State.fetchIfDue, State.fetchDue_along, h]

/-- Performing an item's events and finishing it, when it is not the last. -/
theorem State.finish_along {b : State} {es ev : List PinEvent} {j n k : Nat} (h : j + 1 ≠ b.len) :
    (((b.along es j n).performAll ev).dropInputs k).finishItem = b.along (es ++ ev) (j + 1) (n + k) := by
  have hl : (((b.along es j n).performAll ev).dropInputs k).len = b.len := by
    simp [State.len, State.along]
  rw [State.finishItem, hl]
  simp [State.along, State.performAll_eq, State.dropInputs, h, List.drop_drop]

/-- Performing the last item's events and finishing the command. -/
theorem State.complete_along {b : State} {es ev : List PinEvent} {j n k : Nat} (h : j + 1 = b.len)
    (hb : b.bit = 0) (hs : b.sub = 0) :
    (((b.along es j n).performAll ev).dropInputs k).finishItem = (b.along (es ++ ev) 0 (n + k)).completed := by
  have hl : (((b.along es j n).performAll ev).dropInputs k).len = b.len := by
    simp [State.len, State.along]
  rw [State.finishItem, hl]
  simp [State.along, State.performAll_eq, State.dropInputs, State.completed, h, hb, hs, List.drop_drop]

/-- No failure is reported in an undisturbed micro-step. -/
theorem State.input_along_calm {b : State} (h : b.undisturbed = true) (es : List PinEvent) (j n : Nat) :
    (b.along es j n).input.gpioCfgFail = false :=
  (State.input_calm (s := b.along es j n) (State.undisturbed_drop n h)).2.2

/-- One item in which no pixel is fetched, not the last. -/
theorem AtItem.walk_one {b : State} {it : Item} (h : AtItem b) (es : List PinEvent) (j n : Nat)
    (hc : it = .cfgItem → (b.along es j n).input.gpioCfgFail = false) (hit : (b.setIdx j).item = some it) (hd : (b.setIdx j).fetchDue = none)
    (hl : j + 1 ≠ b.len) :
    run it.steps (b.along es j n) = .next (b.along (es ++ it.events) (j + 1) (n + it.steps)) := by
  have he := State.fetchIfDue_along_none (es := es) (n := n) hd
  rw [(h.along es j n).run_item (by rw [he]; exact hit) hc, he,
    State.finish_along hl]

/-- The last item. -/
theorem AtItem.walk_last {b : State} {it : Item} (h : AtItem b) (es : List PinEvent) (j n : Nat)
    (hc : it = .cfgItem → (b.along es j n).input.gpioCfgFail = false) (hit : (b.setIdx j).item = some it) (hd : (b.setIdx j).fetchDue = none)
    (hl : j + 1 = b.len) :
    run it.steps (b.along es j n) = .next (b.along (es ++ it.events) 0 (n + it.steps)).completed := by
  have he := State.fetchIfDue_along_none (es := es) (n := n) hd
  rw [(h.along es j n).run_item (by rw [he]; exact hit) hc, he,
    State.complete_along hl h.bit h.sub]

/-- Several items in which no pixel is fetched, none of them the last. -/
theorem AtItem.walk {b : State} (h : AtItem b) (its : List Item)
    (hc : Item.cfgItem ∈ its → b.undisturbed = true) (es : List PinEvent) (j n : Nat)
    (hits : ∀ k it, its[k]? = some it →
      (b.setIdx (j + k)).item = some it ∧ (b.setIdx (j + k)).fetchDue = none ∧ j + k + 1 ≠ b.len) :
    run (stepsOf its) (b.along es j n) = .next (b.along (es ++ itemEvents its) (j + its.length) (n + stepsOf its)) := by
  induction its generalizing es j n with
  | nil => simp [run]
  | cons it its ih =>
    obtain ⟨h1, h2, h3⟩ := hits 0 it rfl
    have hw := h.walk_one es j n (fun hh => State.input_along_calm (hc (by simp [hh])) es j n) h1 h2 h3
    have hr := ih (fun hh => hc (by simp [hh])) (es ++ it.events) (j + 1) (n + it.steps) (fun k it' hk => by
      have := hits (k + 1) it' (by simpa using hk)
      rwa [show j + (k + 1) = j + 1 + k by omega] at this)
    rw [stepsOf_cons, run_trans hw hr]
    simp [Nat.add_assoc, Nat.add_comm 1]

end Sys2Proof.Machine
end

