-- ==== Sys2Proof/Laws/Packets.lean ====
section
/-! SUPPORT. The packets of a WRITE, each with its pixel fetch (44_write.md R131, R132, R134). -/

namespace Sys2Proof.Machine

/-- `b` after the fetches of pixels `0` to `m - 1`. -/
def State.fetchPixels : Nat → State → State
  | 0, b => b
  | m + 1, b => (State.fetchPixels m b).pixelFetch m

/-- The items of the first `m` packets. -/
def State.pixelItems (b : State) (v : BitVec 5) (m : Nat) : List Item :=
  (List.range m).flatMap (fun i => packetItems v (b.pixelAt i))

theorem State.fetchPixels_eq (m : Nat) (b : State) :
    b.fetchPixels m =
      { b with
        red := if m = 0 then b.red else (b.pixelAt (m - 1)).red
        green := if m = 0 then b.green else (b.pixelAt (m - 1)).green
        blue := if m = 0 then b.blue else (b.pixelAt (m - 1)).blue
        draws := b.draws + m } := by
  induction m with
  | zero => rfl
  | succ m ih =>
    rw [State.fetchPixels, ih]
    simp [State.pixelFetch_eq, State.byteAt, State.pixelAt, Nat.add_assoc]

theorem AtItem.fetchPixels {b : State} (h : AtItem b) (m : Nat) : AtItem (b.fetchPixels m) := by
  rw [State.fetchPixels_eq]
  exact { calm := h.calm, busy := h.busy, noFault := h.noFault, bit := h.bit, sub := h.sub }

theorem State.undisturbed_fetchPixels {b : State} (h : b.undisturbed = true) (m : Nat) :
    (b.fetchPixels m).undisturbed = true := by
  rw [State.fetchPixels_eq]; exact h

theorem wireByte_pixelWord (v : BitVec 5) (b g r : Byte) :
    (List.range 4).map (wireByte (pixelWord v b g r)) = [controlByte v, b, g, r] := by
  have h : ∀ a b c d : Byte, (a ++ b ++ c ++ d : BitVec 32).extractLsb' 24 8 = a ∧
      (a ++ b ++ c ++ d : BitVec 32).extractLsb' 16 8 = b ∧ (a ++ b ++ c ++ d : BitVec 32).extractLsb' 8 8 = c ∧
      (a ++ b ++ c ++ d : BitVec 32).extractLsb' 0 8 = d := by
    intro a b c d
    refine ⟨?_, ?_, ?_, ?_⟩ <;>
    · ext i hi
      simp only [BitVec.getElem_extractLsb', BitVec.getLsbD_append]
      interval_cases i <;> simp
  obtain ⟨h0, h1, h2, h3⟩ := h (controlByte v) b g r
  simp [List.range_succ, wireByte, pixelWord, h0, h1, h2, h3]

theorem wireByte_startFrame (k : Nat) : wireByte startFrameWord k = 0 := by
  simp [wireByte, startFrameWord]

/-- The bytes of a pixel packet by their place in it (`30_encoding.md` R62). -/
theorem frameByte_pixel (v : BitVec 5) (b g r : Byte) :
    frameByte (.wirePixel v b g r) 0 = controlByte v ∧ frameByte (.wirePixel v b g r) 1 = b
      ∧ frameByte (.wirePixel v b g r) 2 = g ∧ frameByte (.wirePixel v b g r) 3 = r := by
  have h := wireByte_pixelWord v b g r
  simpa [List.range_succ, frameByte] using h

/-- The item at place `k` of packet `i` of a WRITE. -/
theorem State.item_write_pixel {b : State} (hop : b.op = 4) {i k : Nat} (hi : i < b.count) (hk : k < 4) :
    (b.setIdx (5 + 4 * i + k)).item = (packetItems b.bright5 b.pixel)[k]? := by
  have h1 : ¬ (5 + 4 * i + k = 0) := by omega
  have h2 : ¬ (5 + 4 * i + k < 5) := by omega
  have h3 : 5 + 4 * i + k < 5 + 4 * b.count := by omega
  have h4 : (5 + 4 * i + k - 5) % 4 = k := by omega
  obtain ⟨f0, f1, f2, f3⟩ := frameByte_pixel b.bright5 b.blue b.green b.red
  have hp : (b.setIdx (5 + 4 * i + k)).pending = .frame (.wirePixel b.bright5 b.blue b.green b.red) := by
    simp only [State.pending, State.setIdx, hop]
    simp [h2, h3]
  have hx : (b.setIdx (5 + 4 * i + k)).byteIndex = k := by
    simp only [State.byteIndex, State.setIdx, hop]
    simp [h2, h4]
  simp only [State.item, hp, hx]
  interval_cases k <;> simp [packetItems, State.pixel, f0, f1, f2, f3]

theorem State.fetchDue_write_pixel {b : State} (hop : b.op = 4) (hbit : b.bit = 0) (hsub : b.sub = 0) {i : Nat}
    (hi : i < b.count) : (b.setIdx (5 + 4 * i)).fetchDue = some i := by
  have h3 : 5 + 4 * i < 5 + 4 * b.count := by omega
  have h4 : (5 + 4 * i - 5) % 4 = 0 := by omega
  have h5 : (5 + 4 * i - 5) / 4 = i := by omega
  simp [State.fetchDue, State.setIdx, hop, hbit, hsub, h3]

theorem State.fetchDue_none_of_mod {b : State} {j : Nat} (h : j < 5 ∨ 5 + 4 * b.count ≤ j ∨ (j - 5) % 4 ≠ 0) :
    (b.setIdx j).fetchDue = none := by
  refine if_neg fun hc => ?_
  obtain ⟨_, _, _, h4, h5, h6⟩ := hc
  simp only [State.setIdx] at h4 h5 h6
  omega

theorem State.fetchDue_none_of_op {b : State} (h : b.op ≠ 4) : b.fetchDue = none := if_neg fun hc => h hc.1

/-- One packet of a WRITE: its pixel is fetched and its four bytes go out. -/
theorem AtItem.walk_packet {b : State} (h : AtItem b) (hop : b.op = 4) (es : List PinEvent) (n : Nat) {i : Nat}
    (hi : i < b.count) (hl : 5 + 4 * b.count < b.len) :
    run 96 (b.along es (5 + 4 * i) n) = .next
      ((b.pixelFetch i).along (es ++ itemEvents (packetItems b.bright5 (b.pixelFetch i).pixel)) (5 + 4 * (i + 1))
        (n + 96)) := by
  have hd := State.fetchDue_write_pixel hop h.bit h.sub hi
  have hf : AtItem (b.pixelFetch i) :=
    { calm := h.calm, busy := h.busy, noFault := h.noFault, bit := h.bit, sub := h.sub }
  have hlen : (b.pixelFetch i).len = b.len := by simp [State.len, State.pixelFetch]
  have he := State.fetchIfDue_along_some (es := es) (n := n) hd
  have hit0 := State.item_write_pixel (b := b.pixelFetch i) (k := 0) hop hi (by omega)
  have h1 := (h.along es (5 + 4 * i) n).run_item (it := .byte (controlByte b.bright5))
    (by rw [he, State.item_along]; exact hit0) (fun hh => by cases hh)
  rw [he, State.finish_along (by rw [hlen]; omega)] at h1
  have h2 := hf.walk [.byte (b.pixelFetch i).blue, .byte (b.pixelFetch i).green, .byte (b.pixelFetch i).red]
    (by simp) (es ++ (Item.byte (controlByte b.bright5)).events) (5 + 4 * i + 1) (n + 24) (fun k it hk => by
      have hk4 : k < 3 := by
        by_contra hh
        rw [List.getElem?_eq_none (by simp; omega)] at hk
        cases hk
      have hit := State.item_write_pixel (b := b.pixelFetch i) (i := i) (k := k + 1) hop hi (by omega)
      rw [show 5 + 4 * i + (k + 1) = 5 + 4 * i + 1 + k by omega] at hit
      refine ⟨?_, State.fetchDue_none_of_mod (.inr (.inr (by omega))), ?_⟩
      · rw [hit, ← hk]
        rfl
      · rw [hlen]; omega)
  have h3 := run_trans h1 h2
  rw [show (Item.byte (controlByte b.bright5)).steps + stepsOf [Item.byte (b.pixelFetch i).blue,
    .byte (b.pixelFetch i).green, .byte (b.pixelFetch i).red] = 96 by rfl] at h3
  rw [h3]
  simp [packetItems, State.pixel, Nat.add_assoc, Nat.mul_add, stepsOf, Item.steps]

/-- The first `m` packets of a WRITE. -/
theorem AtItem.walk_pixels {b : State} (h : AtItem b) (hop : b.op = 4) (es : List PinEvent) (n m : Nat)
    (hm : m ≤ b.count) (hl : 5 + 4 * b.count < b.len) :
    run (96 * m) (b.along es 5 n) = .next
      ((b.fetchPixels m).along (es ++ itemEvents (b.pixelItems b.bright5 m)) (5 + 4 * m) (n + 96 * m)) := by
  induction m with
  | zero => simp [run, State.fetchPixels, State.pixelItems]
  | succ m ih =>
    have hlen : (b.fetchPixels m).len = b.len := by rw [State.fetchPixels_eq]; rfl
    have hcount : (b.fetchPixels m).count = b.count := by rw [State.fetchPixels_eq]
    have hb5 : (b.fetchPixels m).bright5 = b.bright5 := by rw [State.fetchPixels_eq]
    have hpx : ((b.fetchPixels m).pixelFetch m).pixel = b.pixelAt m := by
      rw [State.fetchPixels_eq]; simp [State.pixel, State.pixelAt, State.byteAt]
    have hp := (h.fetchPixels m).walk_packet (by rw [State.fetchPixels_eq]; exact hop)
      (es ++ itemEvents (b.pixelItems b.bright5 m)) (n + 96 * m) (i := m) (by rw [hcount]; omega)
      (by rw [hcount, hlen]; exact hl)
    rw [show 96 * (m + 1) = 96 * m + 96 by omega, run_trans (ih (by omega)) hp, hb5, hpx]
    simp [State.fetchPixels, State.pixelItems, List.range_succ, Nat.add_assoc]

end Sys2Proof.Machine
end

