-- ==== Sys2Proof/Laws/Commands.lean ====
section
/-! SUPPORT. Each operation walked item by item from acceptance to completion (40_initialize.md R90 to 44_write.md R131; 45_bit_transfer.md R153). -/

namespace Sys2Proof.Machine

theorem State.cmdReady_iff {s : State} : s.cmdReady = true ↔ s.busy = false ∧ s.fault = false := by
  simp [State.cmdReady]

/-- A ready block left alone stands at its first item once a command has been accepted. -/
theorem AtItem.begun {s l : State} (hr : s.cmdReady = true) (hu : s.uninterrupted = true) (hf : l.fault = s.fault)
    (hs : l.script = s.script) : AtItem l.begun where
  calm := by simpa [State.uninterrupted, hs] using hu
  busy := rfl
  noFault := by simp [hf, (State.cmdReady_iff.mp hr).2]
  bit := rfl
  sub := rfl

/-- An index at which a list has an element is below its length. -/
theorem lt_of_getElem?_eq_some {α : Type} {l : List α} {k : Nat} {a : α} (h : l[k]? = some a) : k < l.length := by
  by_contra hh
  rw [List.getElem?_eq_none (by omega)] at h
  cases h

/-- The whole walk of an operation without pixel fetches. -/
theorem AtItem.run_items {b : State} (h : AtItem b) (hidx : b.idx = 0) (its : List Item) (last : Item)
    (hc : Item.cfgItem ∈ its ++ [last] → b.undisturbed = true) (hop : b.op ≠ 4) (hlen : b.len = its.length + 1)
    (hexp : ∀ k < its.length + 1, (b.setIdx k).item = (its ++ [last])[k]?) :
    run (stepsOf (its ++ [last])) b =
      .next (b.along (itemEvents (its ++ [last])) 0 (stepsOf (its ++ [last]))).completed := by
  have hnf : ∀ j, (b.setIdx j).fetchDue = none := fun j =>
    State.fetchDue_none_of_op (by simpa [State.setIdx] using hop)
  have h1 := h.walk its (fun hh => hc (by simp [hh])) [] 0 0 (fun k it hk => by
    have hk' := lt_of_getElem?_eq_some hk
    refine ⟨?_, hnf _, by omega⟩
    rw [Nat.zero_add, hexp k (by omega), List.getElem?_append_left hk', hk])
  have h2 := h.walk_last (it := last) ([] ++ itemEvents its) (0 + its.length) (0 + stepsOf its)
    (fun hh => State.input_along_calm (hc (by simp [hh])) _ _ _) (by rw [Nat.zero_add, hexp _ (by omega)]; simp) (hnf _) (by omega)
  rw [State.along_zero hidx] at h1
  rw [stepsOf_append, stepsOf_cons, stepsOf_nil, Nat.add_zero, run_trans h1 h2]
  simp

theorem itemEvents_zeros (n : Nat) :
    itemEvents (List.replicate n (.byte 0)) = (List.replicate (8 * n) (xferBit false)).flatten := by
  induction n with
  | zero => rfl
  | succ n ih =>
    rw [List.replicate_succ, itemEvents_cons, ih, show 8 * (n + 1) = 8 + 8 * n by omega, List.replicate_add,
      List.flatten_append]
    rfl

theorem stepsOf_zeros (n : Nat) : stepsOf (List.replicate n (.byte 0)) = 24 * n := by
  induction n with
  | zero => rfl
  | succ n ih => rw [List.replicate_succ, stepsOf_cons, ih]; simp [Item.steps]; omega

/-- INIT from acceptance to completion. -/
theorem State.run_init {s : State} (hr : s.cmdReady = true) (hu : s.undisturbed = true) :
    run 1 s.loadInit.begun = .next (s.loadInit.begun.along [.cfg] 0 1).completed := by
  have h := AtItem.begun (l := s.loadInit) hr (State.uninterrupted_of_undisturbed hu) rfl rfl
  refine h.run_items rfl [] .cfgItem (fun _ => hu) (show (0 : BitVec 3) ≠ 4 by decide) rfl fun k hk => ?_
  obtain rfl : k = 0 := by simp at hk; omega
  rfl

/-- START from acceptance to completion. -/
theorem State.run_start {s : State} (hr : s.cmdReady = true) (hu : s.undisturbed = true) :
    run 97 s.loadStart.begun = .next (s.loadStart.begun.along (itemEvents startItems) 0 97).completed := by
  have h := AtItem.begun (l := s.loadStart) hr (State.uninterrupted_of_undisturbed hu) rfl rfl
  refine h.run_items rfl [.cfgItem, .byte 0, .byte 0, .byte 0] (.byte 0) (fun _ => hu)
    (show (1 : BitVec 3) ≠ 4 by decide) rfl fun k hk => ?_
  simp at hk
  interval_cases k <;>
    simp [State.item, State.pending, State.setIdx, State.loadStart, State.begun, frameByte, wireByte_startFrame]

/-- COLOR from acceptance to completion; `gpio_cfg_fail` is not looked at. -/
theorem State.run_color {s : State} (r g b v : Byte) (hr : s.cmdReady = true) (hu : s.uninterrupted = true) :
    run 96 (s.loadColor r g b v).begun =
      .next ((s.loadColor r g b v).begun.along
        (itemEvents (packetItems (reduceBrightness s.cfg.brightReduce v) { red := r, green := g, blue := b })) 0
        96).completed := by
  have h := AtItem.begun (l := s.loadColor r g b v) hr hu rfl rfl
  generalize hv : reduceBrightness s.cfg.brightReduce v = w
  refine h.run_items rfl [.byte (controlByte w), .byte b, .byte g] (.byte r) (fun hh => by simp at hh)
    (show (2 : BitVec 3) ≠ 4 by decide) rfl fun k hk => ?_
  simp at hk
  obtain ⟨f0, f1, f2, f3⟩ := frameByte_pixel w b g r
  interval_cases k <;>
    simp [State.item, State.pending, State.setIdx, State.loadColor, State.begun, State.byteIndex, hv, f0, f1, f2, f3]

/-- The padding of an END, up to its `CfgItem`; `gpio_cfg_fail` is not looked at. -/
theorem State.run_end_padding {s : State} (n : Nat) (hr : s.cmdReady = true) (hu : s.uninterrupted = true) :
    run (24 * padBytes n) (s.loadEndFrame n).begun =
      .next ((s.loadEndFrame n).begun.along (itemEvents (List.replicate (padBytes n) (.byte 0))) (padBytes n)
        (24 * padBytes n)) := by
  have h := AtItem.begun (l := s.loadEndFrame n) hr hu rfl rfl
  have hl : (s.loadEndFrame n).begun.len = padBytes n + 1 := rfl
  have hw := h.walk (List.replicate (padBytes n) (.byte 0)) (by simp) [] 0 0 (fun k it hk => by
    have hk' : k < padBytes n := by simpa using lt_of_getElem?_eq_some hk
    refine ⟨?_, State.fetchDue_none_of_op (show (3 : BitVec 3) ≠ 4 by decide), by omega⟩
    rw [← hk]
    simp [State.item, State.pending, State.setIdx, State.loadEndFrame, State.begun, frameByte, endPadByte, hk'])
  rw [State.along_zero rfl, stepsOf_zeros] at hw
  rw [hw]
  simp

/-- The last item of an END is a `CfgItem`. -/
theorem State.item_end_last (s : State) (n : Nat) :
    ((s.loadEndFrame n).begun.setIdx (padBytes n)).item = some .cfgItem := by
  simp [State.item, State.pending, State.setIdx, State.loadEndFrame, State.begun]

/-- END from acceptance to completion. -/
theorem State.run_end {s : State} (n : Nat) (hr : s.cmdReady = true) (hu : s.undisturbed = true) :
    run (24 * padBytes n + 1) (s.loadEndFrame n).begun =
      .next ((s.loadEndFrame n).begun.along (itemEvents (endItems (padBytes n))) 0 (24 * padBytes n + 1)).completed := by
  have hh := State.uninterrupted_of_undisturbed hu
  have h2 := (AtItem.begun (l := s.loadEndFrame n) hr hh rfl rfl).walk_last (it := .cfgItem)
    (itemEvents (List.replicate (padBytes n) (.byte 0))) (padBytes n) (24 * padBytes n)
    (fun _ => State.input_along_calm (b := (s.loadEndFrame n).begun) hu _ _ _) (s.item_end_last n)
    (State.fetchDue_none_of_op (show (3 : BitVec 3) ≠ 4 by decide)) rfl
  rw [show Item.cfgItem.steps = 1 from rfl] at h2
  rw [run_trans (State.run_end_padding n hr hh) h2]
  simp [endItems]

/-- The start frame at the head of a WRITE. -/
theorem AtItem.walk_startItems {b : State} (h : AtItem b) (hc : b.input.gpioCfgFail = false) (hidx : b.idx = 0)
    (hop : b.op = 4) : run 97 b = .next (b.along (itemEvents startItems) 5 97) := by
  have hl := State.len_write hop
  have h0 := h.walk_one (it := .cfgItem) [] 0 0 (fun _ => by rw [State.along_zero hidx]; exact hc)
    (by simp [State.item, State.pending, State.setIdx, hop]) (State.fetchDue_none_of_mod (.inl (by omega))) (by omega)
  have hw := h.walk (List.replicate 4 (.byte 0)) (by simp) ([] ++ Item.cfgItem.events) 1 (0 + Item.cfgItem.steps)
    (fun k it hk => by
      have hk4 : k < 4 := by simpa using lt_of_getElem?_eq_some hk
      refine ⟨?_, State.fetchDue_none_of_mod (.inl (by omega)), by omega⟩
      rw [← hk]
      interval_cases k <;>
        simp [State.item, State.pending, State.setIdx, hop, frameByte, wireByte_startFrame])
  have h1 := run_trans h0 hw
  rw [State.along_zero hidx] at h1
  exact h1

/-- The padding of a WRITE, up to its last `CfgItem`. -/
theorem AtItem.walk_padding {b : State} (h : AtItem b) (hop : b.op = 4) (es : List PinEvent) (n : Nat) :
    run (24 * b.npad) (b.along es (5 + 4 * b.count) n) =
      .next (b.along (es ++ itemEvents (List.replicate b.npad (.byte 0))) (5 + 4 * b.count + b.npad)
        (n + 24 * b.npad)) := by
  have hl := State.len_write hop
  have h1 := h.walk (List.replicate b.npad (.byte 0)) (by simp) es (5 + 4 * b.count) n (fun k it hk => by
    have hk' : k < b.npad := by simpa using lt_of_getElem?_eq_some hk
    refine ⟨?_, State.fetchDue_none_of_mod (.inr (.inl (by omega))), by omega⟩
    rw [← hk]
    have e2 : ¬ (5 + 4 * b.count + k < 5) := by omega
    simp [State.item, State.pending, State.setIdx, hop, frameByte, endPadByte, e2, hk'])
  rwa [List.length_replicate, stepsOf_zeros] at h1

/-- The last item of a WRITE is a `CfgItem`. -/
theorem State.item_write_last {b : State} (hop : b.op = 4) :
    (b.setIdx (5 + 4 * b.count + b.npad)).item = some .cfgItem := by
  have e3 : ¬ (5 + 4 * b.count + b.npad < 5) := by omega
  simp [State.item, State.pending, State.setIdx, hop, e3]

/-- The items of a WRITE before its last `CfgItem`. -/
def State.writeBody (s : State) (n : Nat) (v : Byte) : List Item :=
  startItems ++ (s.pixelItems (reduceBrightness s.cfg.brightReduce v) n ++ List.replicate (padBytes n) (.byte 0))

/-- WRITE from acceptance up to its last `CfgItem`, each pixel fetched at its packet; `gpio_cfg_fail` is looked at in the
first micro-step only. -/
theorem State.run_write_body {s : State} (n : Nat) (v : Byte) (hr : s.cmdReady = true) (hu : s.uninterrupted = true)
    (hc : s.input.gpioCfgFail = false) :
    run (1 + 24 * (4 + 4 * n + padBytes n)) (s.loadWrite n v).begun =
      .next (((s.loadWrite n v).begun.fetchPixels n).along (itemEvents (s.writeBody n v)) (5 + 4 * n + padBytes n)
        (1 + 24 * (4 + 4 * n + padBytes n))) := by
  have h := AtItem.begun (l := s.loadWrite n v) hr hu rfl rfl
  have hl : (s.loadWrite n v).begun.len = 5 + 4 * n + padBytes n + 1 := State.len_write rfl
  have h1 := h.walk_startItems hc rfl rfl
  have h2 := h.walk_pixels rfl (itemEvents startItems) 97 n (Nat.le_refl n) (by rw [hl]; show 5 + 4 * n < _; omega)
  have hq := State.fetchPixels_eq n (s.loadWrite n v).begun
  have h3 := (h.fetchPixels n).walk_padding (by rw [hq]; rfl)
    (itemEvents startItems ++
      itemEvents ((s.loadWrite n v).begun.pixelItems (s.loadWrite n v).begun.bright5 n)) (97 + 96 * n)
  have ec : ((s.loadWrite n v).begun.fetchPixels n).count = n := by rw [hq]; rfl
  have ep : ((s.loadWrite n v).begun.fetchPixels n).npad = padBytes n := by rw [hq]; rfl
  rw [ec, ep] at h3
  have hw := run_trans (run_trans h1 h2) h3
  rw [show 97 + 96 * n + 24 * padBytes n = 1 + 24 * (4 + 4 * n + padBytes n) by omega] at hw
  rw [hw, State.writeBody, itemEvents_append, itemEvents_append, List.append_assoc]
  rfl

/-- WRITE from acceptance to completion, each pixel fetched at its packet. -/
theorem State.run_write {s : State} (n : Nat) (v : Byte) (hr : s.cmdReady = true) (hu : s.undisturbed = true) :
    run (2 + 24 * (4 + 4 * n + padBytes n)) (s.loadWrite n v).begun =
      .next (((s.loadWrite n v).begun.fetchPixels n).along (itemEvents (s.expand (.write n v))) 0
        (2 + 24 * (4 + 4 * n + padBytes n))).completed := by
  have hh := State.uninterrupted_of_undisturbed hu
  have hq := State.fetchPixels_eq n (s.loadWrite n v).begun
  have hop : ((s.loadWrite n v).begun.fetchPixels n).op = 4 := by rw [hq]; rfl
  have ec : ((s.loadWrite n v).begun.fetchPixels n).count = n := by rw [hq]; rfl
  have ep : ((s.loadWrite n v).begun.fetchPixels n).npad = padBytes n := by rw [hq]; rfl
  have hi := State.item_write_last hop
  rw [ec, ep] at hi
  have h2 := ((AtItem.begun (l := s.loadWrite n v) hr hh rfl rfl).fetchPixels n).walk_last (it := .cfgItem)
    (itemEvents (s.writeBody n v)) (5 + 4 * n + padBytes n) (1 + 24 * (4 + 4 * n + padBytes n))
    (fun _ => State.input_along_calm (State.undisturbed_fetchPixels (b := (s.loadWrite n v).begun) hu n) _ _ _) hi
    (State.fetchDue_none_of_mod (.inr (.inl (by rw [ec]; omega)))) (by rw [State.len_write hop, ec, ep])
  rw [show Item.cfgItem.steps = 1 from rfl] at h2
  have hw := run_trans (State.run_write_body n v hr hh (State.input_calm hu).2.2) h2
  rw [show 1 + 24 * (4 + 4 * n + padBytes n) + 1 = 2 + 24 * (4 + 4 * n + padBytes n) by omega] at hw
  rw [hw, State.writeBody, State.expand, endItems, ← List.append_assoc]
  simp only [itemEvents_append, itemEvents_cons, itemEvents_nil, List.append_nil, List.append_assoc]
  rfl

end Sys2Proof.Machine
end

