-- ==== Sys2Proof/Laws/Encoding.lean ====
section
/-! SUPPORT. The fields of a composed command word and of a composed pixel packet (30_encoding.md R62, R69, R73 to R75). -/

namespace Sys2Proof

@[simp] theorem cmdOp_commandWord (o : BitVec 3) (a : BitVec 32) : cmdOp (commandWord o a) = o := by
  ext i hi
  simp only [cmdOp, commandWord, BitVec.getElem_extractLsb', BitVec.getLsbD_append]
  simp [BitVec.getLsbD_eq_getElem hi]

@[simp] theorem cmdArg_commandWord (o : BitVec 3) (a : BitVec 32) : cmdArg (commandWord o a) = a := by
  ext i hi
  simp only [cmdArg, commandWord, BitVec.getElem_extractLsb', BitVec.getLsbD_append]
  simp [hi]

/-- The argument fields of COLOR (`30_encoding.md` R73). -/
theorem color_fields (v r g b : Byte) :
    argBr8 (v ++ r ++ g ++ b) = v ∧ argRed (v ++ r ++ g ++ b) = r ∧ argGreen (v ++ r ++ g ++ b) = g
      ∧ argBlue (v ++ r ++ g ++ b) = b := by
  refine ⟨?_, ?_, ?_, ?_⟩ <;>
  · ext i hi
    simp only [argBr8, argRed, argGreen, argBlue, BitVec.getElem_extractLsb', BitVec.getLsbD_append]
    interval_cases i <;> simp

/-- The fields of a pixel packet (`30_encoding.md` R62). -/
theorem pixelWord_fields (v : BitVec 5) (b g r : Byte) :
    (pixelWord v b g r).extractLsb' 29 3 = 0b111#3 ∧ (pixelWord v b g r).extractLsb' 24 5 = v
      ∧ (pixelWord v b g r).extractLsb' 16 8 = b ∧ (pixelWord v b g r).extractLsb' 8 8 = g
      ∧ (pixelWord v b g r).extractLsb' 0 8 = r := by
  refine ⟨?_, ?_, ?_, ?_, ?_⟩ <;>
  · ext i hi
    simp only [pixelWord, controlByte, BitVec.getElem_extractLsb', BitVec.getLsbD_append]
    interval_cases i <;> simp

/-- Every word is its operation code and its argument. -/
theorem commandWord_fields (w : CommandWord) : commandWord (cmdOp w) (cmdArg w) = w := by
  apply BitVec.eq_of_getLsbD_eq
  intro i hi
  simp only [commandWord, cmdOp, cmdArg, BitVec.getLsbD_append, BitVec.getLsbD_extractLsb']
  by_cases h : i < 32
  · simp [h]
  · simp [h, show 32 + (i - 32) = i by omega, show i - 32 < 3 by omega]

/-- Decoding a word by its operation code. -/
theorem decodeCommand_of_op (cfg : Config) (w : CommandWord) :
    (cmdOp w = 0 → decodeCommand cfg w = .init) ∧ (cmdOp w = 1 → decodeCommand cfg w = .start)
      ∧ (cmdOp w = 2 → decodeCommand cfg w
          = .color (argRed (cmdArg w)) (argGreen (cmdArg w)) (argBlue (cmdArg w)) (argBr8 (cmdArg w)))
      ∧ (cmdOp w = 3 → decodeCommand cfg w = .endFrame (argCount cfg (cmdArg w)))
      ∧ (cmdOp w = 4 → decodeCommand cfg w = .write (argCount cfg (cmdArg w)) (argBr8 (cmdArg w)))
      ∧ (cmdOp w = 5 → decodeCommand cfg w = .reserved5) ∧ (cmdOp w = 6 → decodeCommand cfg w = .reserved6)
      ∧ (cmdOp w = 7 → decodeCommand cfg w = .reserved7) := by
  refine ⟨?_, ?_, ?_, ?_, ?_, ?_, ?_, ?_⟩ <;> (intro h; rw [decodeCommand, h]; rfl)

end Sys2Proof
end

