-- ==== Sys2Proof/Laws/Memory.lean ====
section
/-! SUPPORT. The pixel space as a list in canonical form: read after write, and that every operation keeps the form (20_memory.md R41, R51). -/

namespace Sys2Proof.Machine

theorem Memory.read_cons (c : Host.Cell) (m : List Host.Cell) (x : Nat) :
    Memory.read (c :: m) x = if c.1 = x then some c.2 else Memory.read m x := rfl

theorem Memory.write_cons (c : Host.Cell) (m : List Host.Cell) (a : Nat) (b : Byte) :
    Memory.write (c :: m) a b =
      if a < c.1 then (a, b) :: c :: m else if a = c.1 then (a, b) :: m else c :: Memory.write m a b := rfl

/-- A read gives the byte last written at its address and is not disturbed by a write elsewhere. -/
theorem Memory.read_write (m : List Host.Cell) (a : Nat) (b : Byte) (x : Nat) :
    Memory.read (Memory.write m a b) x = if x = a then some b else Memory.read m x := by
  induction m with
  | nil => simp [Memory.write, Memory.read, eq_comm]
  | cons c m ih =>
    rw [Memory.write_cons]
    split
    · rw [Memory.read_cons]; simp only [eq_comm]
    · split
      · next h =>
        rw [Memory.read_cons, Memory.read_cons]
        simp only [← h, eq_comm]
        split <;> rfl
      · next h =>
        rw [Memory.read_cons, ih, Memory.read_cons]
        by_cases hx : x = a
        · subst hx; rw [if_neg (fun e => h e.symm), if_pos rfl, if_pos rfl]
        · rw [if_neg hx, if_neg hx]

/-- The addresses of a memory after a write are its own and the written one. -/
theorem Memory.mem_write {m : List Host.Cell} {a : Nat} {b : Byte} {c : Host.Cell} (h : c ∈ Memory.write m a b) :
    c = (a, b) ∨ c ∈ m := by
  induction m with
  | nil => simpa [Memory.write] using h
  | cons d m ih =>
    rw [Memory.write_cons] at h
    split at h
    · simpa using h
    · split at h
      · rcases List.mem_cons.mp h with h | h
        · exact .inl h
        · exact .inr (List.mem_cons_of_mem _ h)
      · rcases List.mem_cons.mp h with h | h
        · exact .inr (h ▸ List.mem_cons_self)
        · exact (ih h).imp_right (List.mem_cons_of_mem _)

theorem Memory.wf_cons {c : Host.Cell} {m : List Host.Cell} :
    Memory.wf (c :: m) = true ↔ (∀ d ∈ m, c.1 < d.1) ∧ Memory.wf m = true := by
  simp [Memory.wf, List.pairwise_cons]

/-- A write keeps the canonical form. -/
theorem Memory.wf_write {m : List Host.Cell} (h : Memory.wf m = true) (a : Nat) (b : Byte) :
    Memory.wf (Memory.write m a b) = true := by
  induction m with
  | nil => rfl
  | cons c m ih =>
    obtain ⟨hc, hm⟩ := Memory.wf_cons.mp h
    rw [Memory.write_cons]
    split
    · next hlt =>
      refine Memory.wf_cons.mpr ⟨fun d hd => ?_, h⟩
      rcases List.mem_cons.mp hd with rfl | hd
      · exact hlt
      · exact hlt.trans (hc d hd)
    · next hge =>
      split
      · next he => exact Memory.wf_cons.mpr ⟨fun d hd => he ▸ hc d hd, hm⟩
      · next hne =>
        refine Memory.wf_cons.mpr ⟨fun d hd => ?_, ih hm⟩
        rcases Memory.mem_write hd with rfl | hd
        · show c.1 < a; omega
        · exact hc d hd

/-- Several writes keep the canonical form. -/
theorem Memory.wf_writeAll {m : List Host.Cell} (h : Memory.wf m = true) (ws : List Host.Cell) :
    Memory.wf (Memory.writeAll m ws) = true := by
  induction ws generalizing m with
  | nil => exact h
  | cons c ws ih => exact ih (Memory.wf_write h c.1 c.2)

/-- The cells after several writes are the old ones and the written ones. -/
theorem Memory.mem_writeAll {m ws : List Host.Cell} {c : Host.Cell} (h : c ∈ Memory.writeAll m ws) :
    c ∈ ws ∨ c ∈ m := by
  induction ws generalizing m with
  | nil => exact .inr h
  | cons d ws ih =>
    rcases ih h with h | h
    · exact .inl (List.mem_cons_of_mem _ h)
    · rcases Memory.mem_write h with rfl | h
      · exact .inl List.mem_cons_self
      · exact .inr h

/-- Two memories in canonical form that read the same are the same list. -/
theorem Memory.ext_read {m m' : List Host.Cell} (h : Memory.wf m = true) (h' : Memory.wf m' = true)
    (hr : ∀ x, Memory.read m x = Memory.read m' x) : m = m' := by
  have none_of : ∀ (m : List Host.Cell) (a : Nat), (∀ d ∈ m, a < d.1) → Memory.read m a = none := by
    intro m a hm
    induction m with
    | nil => rfl
    | cons d m ih =>
      have hd := hm d List.mem_cons_self
      rw [Memory.read_cons, if_neg (by omega)]
      exact ih fun e he => hm e (List.mem_cons_of_mem _ he)
  induction m generalizing m' with
  | nil =>
    cases m' with
    | nil => rfl
    | cons c m' => have := hr c.1; simp [Memory.read] at this
  | cons c m ih =>
    cases m' with
    | nil => have := hr c.1; simp [Memory.read] at this
    | cons c' m' =>
      obtain ⟨hc, hm⟩ := Memory.wf_cons.mp h
      obtain ⟨hc', hm'⟩ := Memory.wf_cons.mp h'
      have e1 : c.1 = c'.1 := by
        rcases Nat.lt_trichotomy c.1 c'.1 with hl | he | hl
        · have := hr c.1
          rw [Memory.read_cons, if_pos rfl, none_of (c' :: m') c.1] at this
          · cases this
          · intro d hd
            rcases List.mem_cons.mp hd with rfl | hd
            · exact hl
            · exact hl.trans (hc' d hd)
        · exact he
        · have := hr c'.1
          rw [Memory.read_cons (c := c'), if_pos rfl, none_of (c :: m) c'.1] at this
          · cases this
          · intro d hd
            rcases List.mem_cons.mp hd with rfl | hd
            · exact hl
            · exact hl.trans (hc d hd)
      have e2 : c.2 = c'.2 := by
        have := hr c.1
        rw [Memory.read_cons, if_pos rfl, Memory.read_cons, if_pos e1.symm] at this
        exact Option.some.inj this
      have e : c = c' := Prod.ext e1 e2
      subst e
      rw [ih hm hm' fun x => ?_]
      by_cases hx : c.1 = x
      · rw [none_of m x (hx ▸ hc), none_of m' x (hx ▸ hc')]
      · have := hr x
        rwa [Memory.read_cons, if_neg hx, Memory.read_cons, if_neg hx] at this

/-- The memory at reset is in canonical form. -/
theorem Memory.wf_reset : Memory.wf State.reset.pix = true := rfl

/-! ### The operations on the state that touch the pixel space -/

@[simp] theorem State.beginMicroStep_pix (inp : HostInput) (s : State) :
    (s.beginMicroStep inp).pix = if inp.writesFirst then Memory.writeAll s.pix inp.pixWrites else s.pix := by
  unfold State.beginMicroStep; split <;> rfl

@[simp] theorem State.endMicroStep_pix (inp : HostInput) (s : State) :
    (s.endMicroStep inp).pix = if inp.writesFirst then s.pix else Memory.writeAll s.pix inp.pixWrites := by
  unfold State.endMicroStep; split <;> rfl

end Sys2Proof.Machine
end

