-- ==== Sys2Proof/Laws/MicroStep.lean ====
section
/-! SUPPORT. Everything one micro-step can do, said once (45_bit_transfer.md R149 to R155; 60_exceptions.md R168). -/

namespace Sys2Proof.Machine

/-- A pixel fetch changes nothing the position is read from, but the pixel. -/
theorem State.fetchIfDue_eq (s : State) :
    s.fetchIfDue =
      { s with red := s.fetchIfDue.red, green := s.fetchIfDue.green, blue := s.fetchIfDue.blue,
               draws := s.fetchIfDue.draws } := by
  unfold State.fetchIfDue
  cases s.fetchDue <;> rfl

@[simp] theorem State.len_fetchIfDue (s : State) : s.fetchIfDue.len = s.len := by
  rw [State.fetchIfDue_eq]; rfl
@[simp] theorem State.byteIndex_fetchIfDue (s : State) : s.fetchIfDue.byteIndex = s.byteIndex := by
  rw [State.fetchIfDue_eq]; rfl

/-- A due fetch stands at a control byte of a WRITE. -/
theorem State.fetchDue_some {s : State} {i : Nat} (h : s.fetchDue = some i) :
    s.op = 4 ∧ s.bit = 0 ∧ s.sub = 0 ∧ i < s.count ∧ s.idx = 5 + 4 * i := by
  unfold State.fetchDue at h
  split at h
  · next hc =>
    obtain ⟨h1, h2, h3, h4, h5, h6⟩ := hc
    injection h with h
    exact ⟨h1, h2, h3, by omega, by omega⟩
  · cases h

/-- No pixel is fetched at a `CfgItem`. -/
theorem State.fetchDue_of_cfgItem {s : State} (h : s.fetchIfDue.pending = .cfgItem) : s.fetchDue = none := by
  cases hd : s.fetchDue with
  | none => rfl
  | some i =>
    obtain ⟨ho, _, _, hi, hx⟩ := State.fetchDue_some hd
    have hp : s.fetchIfDue.op = 4 := by simpa using ho
    obtain ⟨hc⟩ := State.pending_cfgItem_cases h
    rw [hp] at hc
    simp at hc
    omega

/-- What a command's arm of exec gives: the reserved codes nothing, an operation its acceptance. -/
theorem exec_of_ready {i : Instr} {s : State} (hc : i.isCommand = true) (hr : s.cmdReady = true) :
    exec i s = .next (if i.isOperation then (s.latched i).begun else s) := by
  cases i <;> simp only [Instr.isCommand, Bool.false_eq_true] at hc <;>
    simp [exec, execInit, execStart, execColor, execEndFrame, execWrite, execReserved5, execReserved6, execReserved7,
      State.accept, State.acceptReserved, hr, Instr.isOperation, State.latched]

theorem exec_of_not_ready {i : Instr} {s : State} (hc : i.isCommand = true) (hr : s.cmdReady = false) :
    exec i s = .next s := by
  cases i <;> simp only [Instr.isCommand, Bool.false_eq_true] at hc <;>
    simp [exec, execInit, execStart, execColor, execEndFrame, execWrite, execReserved5, execReserved6, execReserved7,
      State.accept, State.acceptReserved, hr]

theorem decodeCommand_isCommand (cfg : Config) (w : CommandWord) : (decodeCommand cfg w).isCommand = true := by
  unfold decodeCommand
  split <;> rfl

/-- The ways a micro-step of the block can go, from the state `u` in which it begins. -/
inductive BlockGoes (inp : HostInput) (u : State) : State → Prop where
  /-- Reset. -/
  | reset (hr : inp.rst = true) : BlockGoes inp u u.resetBlock
  /-- The fault holds. -/
  | faulted (hr : inp.rst = false) (hf : u.fault = true) : BlockGoes inp u u
  /-- The fault is raised. -/
  | fails (hr : inp.rst = false) (hf : u.fault = false) (hb : u.busy = true) (hp : u.pending = .cfgItem)
      (hc : inp.cfgFails u.cfg = true) : BlockGoes inp u u.raiseGpioConfigFault
  /-- The lines are configured. -/
  | configures (hr : inp.rst = false) (hf : u.fault = false) (hb : u.busy = true) (hp : u.pending = .cfgItem)
      (hd : u.fetchDue = none) (hc : inp.cfgFails u.cfg = false) : BlockGoes inp u (u.emit .cfg).finishItem
  /-- First pin event of a bit. -/
  | setsData (f : Instr) (hr : inp.rst = false) (hf : u.fault = false) (hb : u.busy = true)
      (hp : u.fetchIfDue.pending = .frame f) (hs : u.sub = 0) :
      BlockGoes inp u
        ((u.fetchIfDue.emit (.setD ((frameByte f u.byteIndex).getLsbD (7 - u.bit.toNat)))).setPos u.bit 1)
  /-- Second pin event of a bit. -/
  | raisesClock (f : Instr) (hr : inp.rst = false) (hf : u.fault = false) (hb : u.busy = true)
      (hp : u.pending = .frame f) (hs : u.sub = 1) : BlockGoes inp u ((u.emit (.setC true)).setPos u.bit 2)
  /-- Third pin event of a bit, another bit following. -/
  | lowersClock (f : Instr) (hr : inp.rst = false) (hf : u.fault = false) (hb : u.busy = true)
      (hp : u.pending = .frame f) (hs : u.sub = 2) (h7 : u.bit ≠ 7) :
      BlockGoes inp u ((u.emit (.setC false)).setPos (u.bit + 1) 0)
  /-- Third pin event of the last bit of a byte. -/
  | endsByte (f : Instr) (hr : inp.rst = false) (hf : u.fault = false) (hb : u.busy = true)
      (hp : u.pending = .frame f) (hs : u.sub = 2) (h7 : u.bit = 7) :
      BlockGoes inp u ((u.emit (.setC false)).setPos 0 0).finishItem
  /-- An operation is accepted. -/
  | accepts (w : CommandWord) (rest : List CommandWord) (hr : inp.rst = false) (hf : u.fault = false)
      (hb : u.busy = false) (hw : inp.withhold = false) (hq : u.cmds = w :: rest)
      (ho : (decodeCommand u.cfg w).isOperation = true) :
      BlockGoes inp u (u.takeCommand.latched (decodeCommand u.cfg w)).begun
  /-- A reserved word is taken. -/
  | ignores (w : CommandWord) (rest : List CommandWord) (hr : inp.rst = false) (hf : u.fault = false)
      (hb : u.busy = false) (hw : inp.withhold = false) (hq : u.cmds = w :: rest)
      (ho : (decodeCommand u.cfg w).isOperation = false) : BlockGoes inp u u.takeCommand
  /-- Nothing is presented. -/
  | waits (hr : inp.rst = false) (hf : u.fault = false) (hb : u.busy = false) (hq : u.presented inp = none) :
      BlockGoes inp u u

/-- The block's micro-step goes one of the ways. -/
theorem blockStep_cases {inp : HostInput} {u t : State} (h : u.blockStep inp = .next t) : BlockGoes inp u t := by
  unfold State.blockStep at h
  split at h
  · next hr => injection h with h; exact h ▸ .reset hr
  next hr =>
  have hr : inp.rst = false := by simpa using hr
  split at h
  · next hf => injection h with h; exact h ▸ .faulted hr hf
  next hf =>
  have hf : u.fault = false := by simpa using hf
  split at h
  · next hb =>
    unfold State.busyStep at h
    split at h
    · next hp =>
      have hd := State.fetchDue_of_cfgItem hp
      rw [State.fetchIfDue_of_none hd] at hp h
      injection h with h
      unfold State.cfgItemStep at h
      split at h
      · next hc => exact h ▸ .fails hr hf hb hp hc
      · next hc => exact h ▸ .configures hr hf hb hp hd (by simpa using hc)
    · next f hp =>
      rw [exec_of_frame (State.pending_frame_isCommand hp), State.byteIndex_fetchIfDue] at h
      have hn : u.sub ≠ 0 → u.fetchIfDue = u := fun hs =>
        State.fetchIfDue_of_none (State.fetchDue_of_sub hs)
      obtain ⟨hs, e⟩ | ⟨hs, e⟩ | ⟨hs, h7, e⟩ | ⟨hs, h7, e⟩ :=
        byteStep_cases h (by simpa using hb) (by simpa using hf)
      · simp only [State.fetchIfDue_sub, State.fetchIfDue_bit] at hs e
        exact e ▸ .setsData f hr hf hb hp hs
      all_goals
        simp only [State.fetchIfDue_sub] at hs
        rw [hn (by rw [hs]; decide)] at hp e
      · exact e ▸ .raisesClock f hr hf hb hp hs
      · rw [hn (by rw [hs]; decide)] at h7
        exact e ▸ .lowersClock f hr hf hb hp hs h7
      · rw [hn (by rw [hs]; decide)] at h7
        exact e ▸ .endsByte f hr hf hb hp hs h7
    · cases h
  · next hb =>
    have hb : u.busy = false := by simpa using hb
    unfold State.idleStep at h
    cases hq : u.presented inp with
    | none => rw [hq] at h; injection h with h; exact h ▸ .waits hr hf hb hq
    | some w =>
      rw [hq] at h
      have hw : inp.withhold = false ∧ u.cmds.head? = some w := by
        unfold State.presented at hq
        split at hq
        · cases hq
        · next hw => exact ⟨by simpa using hw, hq⟩
      obtain ⟨rest, hc⟩ : ∃ rest, u.cmds = w :: rest := List.head?_eq_some_iff.mp hw.2
      simp only at h
      rw [exec_of_ready (decodeCommand_isCommand _ _) (by simp [State.cmdReady, State.takeCommand, hb, hf])] at h
      injection h with h
      cases ho : (decodeCommand u.cfg w).isOperation with
      | true => rw [ho] at h; exact h ▸ .accepts w rest hr hf hb hw.1 hc ho
      | false => rw [ho] at h; exact h ▸ .ignores w rest hr hf hb hw.1 hc ho

/-- Everything a step can do: the host's writes before, one of the block's ways, the host's writes after. -/
theorem step_cases {s t : State} (h : step s = .next t) :
    s.input.writesLegal s.cfg = true
      ∧ ∃ b, BlockGoes s.input (s.beginMicroStep s.input) b ∧ t = b.endMicroStep s.input := by
  unfold step State.microStep at h
  split at h
  · next hw =>
    cases hb : (s.beginMicroStep s.input).blockStep s.input with
    | next b => rw [hb] at h; injection h with h; exact ⟨hw, b, blockStep_cases hb, h.symm⟩
    | fault r => rw [hb] at h; cases h
    | refused r => rw [hb] at h; cases h
  · cases h

end Sys2Proof.Machine
end

