-- ==== Sys2Proof/Laws/PerInstr.lean ====
section
/-! SUPPORT. The opcode table's rows, that no two of one format overlap, and that every instruction's word is one of its own row (spec/opcode_table.json). -/

namespace Sys2Proof.Laws

/-- A row of the opcode table: the format, and the bits it fixes. -/
structure Row where
  /-- Bits of the format: 35, 32 or 8. -/
  width : Nat
  /-- The fixed bits. -/
  mask : Nat
  /-- Their values. -/
  pattern : Nat
  deriving DecidableEq, Repr

/-- The row of an instruction, as the opcode table writes it. -/
def row : Instr → Row
  | .init => { width := 35, mask := 0x700000000, pattern := 0x000000000 }
  | .start => { width := 35, mask := 0x700000000, pattern := 0x100000000 }
  | .color .. => { width := 35, mask := 0x700000000, pattern := 0x200000000 }
  | .endFrame _ => { width := 35, mask := 0x700000000, pattern := 0x300000000 }
  | .write .. => { width := 35, mask := 0x700000000, pattern := 0x400000000 }
  | .reserved5 => { width := 35, mask := 0x700000000, pattern := 0x500000000 }
  | .reserved6 => { width := 35, mask := 0x700000000, pattern := 0x600000000 }
  | .reserved7 => { width := 35, mask := 0x700000000, pattern := 0x700000000 }
  | .wireStartFrame => { width := 32, mask := 0xFFFFFFFF, pattern := 0x00000000 }
  | .wirePixel .. => { width := 32, mask := 0xE0000000, pattern := 0xE0000000 }
  | .wireEndPad => { width := 8, mask := 0xFF, pattern := 0x00 }

/-- All eleven rows. -/
def rows : List Row :=
  [row .init, row .start, row (.color 0 0 0 0), row (.endFrame 0), row (.write 0 0), row .reserved5, row .reserved6,
    row .reserved7, row .wireStartFrame, row (.wirePixel 0 0 0 0), row .wireEndPad]

/-- Two rows of one format differ in a bit that both fix, so no word has two meanings. -/
theorem rows_disjoint :
    rows.Pairwise (fun a b => a.width = b.width → a.mask &&& b.mask &&& (a.pattern ^^^ b.pattern) ≠ 0) := by
  decide

/-- The width of a word's format. -/
def width : RawWord → Nat
  | .cmd _ => 35
  | .wire32 _ => 32
  | .wire8 _ => 8

/-- The instruction's word has the format and the fixed bits of its row. -/
def OpcodeTable.Statement (i : Instr) : Prop :=
  width (encode i) = (row i).width ∧ (encode i).toNat &&& (row i).mask = (row i).pattern

/-- The mask of a command row keeps the operation code. -/
theorem commandWord_masked (o : BitVec 3) (a : BitVec 32) :
    (commandWord o a).toNat &&& 0x700000000 = o.toNat <<< 32 := by
  have hm : ∀ i < 35, (0x700000000#35).getLsbD i = decide (32 ≤ i) := by decide
  have h : commandWord o a &&& 0x700000000#35 = (o ++ 0#32 : CommandWord) := by
    apply BitVec.eq_of_getLsbD_eq
    intro i hi
    rw [BitVec.getLsbD_and, hm i hi, commandWord, BitVec.getLsbD_append, BitVec.getLsbD_append]
    by_cases h : i < 32
    · simp [h, show ¬ 32 ≤ i by omega]
    · simp [h, show 32 ≤ i by omega]
  have h' := congrArg BitVec.toNat h
  rw [BitVec.toNat_and, BitVec.toNat_append, show (0#32).toNat = 0 by decide, Nat.or_zero,
    show (0x700000000#35).toNat = 0x700000000 by decide] at h'
  exact h'

/-- The mask of the pixel packet's row keeps the marker. -/
theorem pixelWord_masked (v : BitVec 5) (b g r : Byte) : (pixelWord v b g r).toNat &&& 0xE0000000 = 0xE0000000 := by
  have hm : ∀ i < 32, (0xE0000000#32).getLsbD i = decide (29 ≤ i) := by decide
  have h : pixelWord v b g r &&& 0xE0000000#32 = 0xE0000000#32 := by
    apply BitVec.eq_of_getLsbD_eq
    intro i hi
    rw [BitVec.getLsbD_and, hm i hi]
    by_cases h : 29 ≤ i
    · obtain ⟨k, rfl⟩ : ∃ k, i = 29 + k := ⟨i - 29, by omega⟩
      have hk := congrArg (fun x => BitVec.getLsbD x k) (pixelWord_fields v b g r).1
      have h3 : ∀ k < 3, (0b111#3).getLsbD k = true := by decide
      simp only [BitVec.getLsbD_extractLsb', h3 k (by omega)] at hk
      simp_all
    · simp [h]
  exact congrArg BitVec.toNat h

namespace OpcodeTable

theorem init : Statement .init := ⟨rfl, rfl⟩
theorem start : Statement .start := ⟨rfl, rfl⟩
theorem color (red green blue br8 : Byte) : Statement (.color red green blue br8) := ⟨rfl, commandWord_masked 2 _⟩
theorem endFrame (count : Nat) : Statement (.endFrame count) := ⟨rfl, commandWord_masked 3 _⟩
theorem write (count : Nat) (br8 : Byte) : Statement (.write count br8) := ⟨rfl, commandWord_masked 4 _⟩
theorem reserved5 : Statement .reserved5 := ⟨rfl, rfl⟩
theorem reserved6 : Statement .reserved6 := ⟨rfl, rfl⟩
theorem reserved7 : Statement .reserved7 := ⟨rfl, rfl⟩
theorem wireStartFrame : Statement .wireStartFrame := ⟨rfl, rfl⟩
theorem wirePixel (bright5 : BitVec 5) (blue green red : Byte) : Statement (.wirePixel bright5 blue green red) :=
  ⟨rfl, pixelWord_masked bright5 blue green red⟩
theorem wireEndPad : Statement .wireEndPad := ⟨rfl, rfl⟩

end OpcodeTable

end Sys2Proof.Laws
end

