-- ==== Sys2Proof/Tests/Slice0.lean ====
section
/-! SUPPORT. Tests of single steps with the spec's own values (95_test_vectors.md), and a witness for the hypotheses of each obligation. -/

namespace Sys2Proof.Tests

open Sys2Proof Sys2Proof.Machine

/-! ### Helpers -/

/-- A property of the next state. -/
def after (o : Host.Outcome State Fault Refusal) (p : State → Bool) : Bool :=
  match o with
  | .next t => p t
  | .fault _ => false
  | .refused _ => false

/-- The block after INIT (`95_test_vectors.md` V-INIT). -/
def ready : State := { State.reset with pins := .idle, evt := [.cfg] }

/-- A platform whose pin configuration can fail. -/
def failing : Config := { Config.default with gpioCfgCanFail := true }

/-- COLOR 0xAA, 0x55, 0x0F, 1 taken by `ready`. -/
def colorTaken : State :=
  { ready with op := 2, bright5 := 1, red := 0xAA, green := 0x55, blue := 0x0F, busy := true }

/-- `colorTaken` after its first pin event. -/
def dataSet : State :=
  { colorTaken with
    pins := { Pins.idle with datLvl := true }, tx := true, evt := [.cfg, .setD true], sub := 1 }

/-- `colorTaken` after its second pin event. -/
def clockHigh : State :=
  { colorTaken with
    pins := { Pins.idle with datLvl := true, clkLvl := true }, tx := true,
    evt := [.cfg, .setD true, .setC true], wire := [true], sub := 2 }

/-- START taken by the reset block, on a platform that can fail. -/
def startTaken : State := { State.reset with cfg := failing, op := 1, busy := true }

/-- `startTaken` after the fault at its first item (`95_test_vectors.md` V-FAULT). -/
def faulted : State := { startTaken with fault := true }

/-- WRITE 2, 8 at the first pin event of the control byte of pixel 1. The host holds both pixels. -/
def fetching : State :=
  { ready with
    op := 4, count := 2, npad := 1, bright5 := 8, busy := true, idx := 9, draws := 1,
    pix := [(0, 1), (1, 2), (2, 3), (3, 0x80), (4, 0x40), (5, 0x20)] }

/-- Inputs of one micro-step with `rst` = 1. -/
def resetting : HostInput := { HostInput.quiet with rst := true }

/-- Inputs of one micro-step with `gpio_cfg_fail` = 1. -/
def failNow : HostInput := { HostInput.quiet with gpioCfgFail := true }

/-- The invariant from its decidable parts. -/
theorem inv_of {s : State}
    (h : Memory.wf s.pix = true ∧ s.pix.all (fun c => Memory.hasAddress s.cfg c.1) = true ∧ s.sub ≠ 3
      ∧ (s.pins.clkLvl = true ↔ s.sub = 2) ∧ (s.busy = false → s.idx = 0 ∧ s.bit = 0 ∧ s.sub = 0)
      ∧ (s.busy = true → s.idx < s.len) ∧ (s.busy = true → s.pending = .cfgItem → s.bit = 0 ∧ s.sub = 0)
      ∧ s.count < 2 ^ s.cfg.countW ∧ s.npad < 2 ^ (s.cfg.countW - 3) ∧ s.idx < 2 ^ (s.cfg.countW + 3)
      ∧ (s.fault = true → s.busy = true) ∧ (s.fault = true → s.pending = .cfgItem)
      ∧ (s.fault = true → s.cfg.gpioCfgCanFail = true) ∧ s.pins = Pins.replay s.evt
      ∧ s.wire = sampledFrom .reset s.evt) : s.Inv := by
  obtain ⟨h1, h2, h3, h4, h5, h6, h7, h8, h9, h10, h11, h12, h13, h14, h15⟩ := h
  exact ⟨⟨h1, h2⟩, ⟨h3, h4, h5, h6, h7⟩, ⟨h8, h9, h10⟩, ⟨h11, h12, h13⟩, ⟨h14, h15⟩⟩

theorem inv_ready : ready.Inv := inv_of (by decide)
theorem inv_colorTaken : colorTaken.Inv := inv_of (by decide)
theorem inv_dataSet : dataSet.Inv := inv_of (by decide)
theorem inv_clockHigh : clockHigh.Inv := inv_of (by decide)
theorem inv_startTaken : startTaken.Inv := inv_of (by decide)
theorem inv_faulted : faulted.Inv := inv_of (by decide)
theorem inv_fetching : fetching.Inv := inv_of (by decide)

/-! ### Well-formedness: the one check, on each instruction that has a count -/

theorem test_end_count_too_wide : (Instr.endFrame 65536).wellFormed .default = false := by decide
theorem test_end_count_widest : (Instr.endFrame 65535).wellFormed .default = true := by decide
theorem test_write_count_too_wide : (Instr.write 65536 0).wellFormed .default = false := by decide
theorem test_write_count_widest : (Instr.write 65535 255).wellFormed .default = true := by decide

/-! ### Decoding: words of V-ENC for the commands, frames of `30_encoding.md` R61 to R63 for the wire -/

theorem test_decode_init :
    decodeCommand .default 0b000_00000000000000000000000000000000#35 = .init := by decide
theorem test_decode_start_ignores_argument : decodeCommand .default 0x1FFFFFFFF#35 = .start := by decide
theorem test_decode_color :
    decodeCommand .default 0b010_00000001_10101010_01010101_00001111#35 = .color 0xAA 0x55 0x0F 1 := by decide
theorem test_decode_end_ignores_high_bits : decodeCommand .default 0x3ABCD0011#35 = .endFrame 17 := by decide
theorem test_decode_write :
    decodeCommand .default 0b100_00001000_00000000_0000000000000011#35 = .write 3 8 := by decide
theorem test_decode_write_ignores_middle_bits : decodeCommand .default 0x401FF0012#35 = .write 18 1 := by decide
theorem test_decode_reserved :
    decodeCommand .default 0x500000000#35 = .reserved5 ∧ decodeCommand .default 0x600000000#35 = .reserved6
      ∧ decodeCommand .default 0x7FFFFFFFF#35 = .reserved7 := by decide
theorem test_decode_wire_start :
    decodeWire32 0b00000000000000000000000000000000#32 = .ok .wireStartFrame := rfl
theorem test_decode_wire_pixel :
    decodeWire32 0b111_00001_00001111_01010101_10101010#32 = .ok (.wirePixel 1 0x0F 0x55 0xAA) := rfl
theorem test_decode_wire_end : decodeWire8 0b00000000#8 = .ok .wireEndPad := rfl
theorem test_reject_wire_without_marker : decodeWire32 0x7F563412#32 = .error .notAWireFrame := rfl
theorem test_reject_legacy_end_byte : decodeWire8 0xFF#8 = .error .notAnEndFrameByte := rfl
theorem test_reject_bit_35 : RawWord.ofTable 40 0x800000000 = .error .wordTooWide := rfl
theorem test_decode_bytes :
    decodeBytes .default [0x56, 0x34, 0x12, 0x1F, 0x02] = .ok (.color 0x12 0x34 0x56 31)
      ∧ decodeBytes .default [0xE1, 0x0F, 0x55, 0xAA] = .ok (.wirePixel 1 0x0F 0x55 0xAA)
      ∧ decodeBytes .default [] = .error .noSuchLength := ⟨rfl, rfl, rfl⟩

/-! ### Encoding: the words of V-COLOR, V-END, V-WRITE -/

theorem test_encode_color : encode (.color 0x01 0x80 0xA5 5) = .cmd 0x2050180A5#35 := by decide
theorem test_encode_end : encode (.endFrame 66) = .cmd 0x300000042#35 := by decide
theorem test_encode_write : encode (.write 66 31) = .cmd 0x41F000042#35 := by decide
theorem test_encode_wire_pixel : encode (.wirePixel 16 0xFF 0 0) = .wire32 0xF0FF0000#32 := by decide

/-! ### Commands, one step each -/

/-- V-INIT, row 1, its last step. -/
theorem test_init_step :
    after (step { State.reset with busy := true }) (fun t =>
      t.status == 0b1000#4 && t.evt == [.cfg] && t.wire == [] && t.padDat == .low && t.padClk == .low) = true := by
  decide

/-- V-INIT, row 4. -/
theorem test_init_fault :
    after (step { State.reset with cfg := failing, busy := true, script := [failNow] }) (fun t =>
      t.status == 0b0101#4 && t.evt == [] && t.padDat == .undriven && !t.cmdReady) = true := by decide

/-- V-START, row 3, the reset after 50 steps. -/
theorem test_start_reset :
    after (step { State.reset with
        op := 1, busy := true, tx := true, pins := .idle, idx := 3, sub := 1, wire := List.replicate 16 false,
        script := [resetting] })
      (fun t => t.status == 0b0000#4 && t.idx == 0 && t.sub == 0 && t.wire == [] && t.evt == []) = true := by decide

/-- V-START, acceptance. -/
theorem test_start_taken :
    after (step { State.reset with cmds := [0x100000000] }) (fun t =>
      t.busy && t.op == 1 && t.len == 5 && t.evt == [] && t.cmds == []) = true := by decide

/-- V-COLOR, brightness 37 under both reductions: control bytes FF and E5. -/
theorem test_color_brightness :
    after (step { ready with cmds := [0x225010203] }) (fun t => t.item == some (.byte 0xFF)) = true
      ∧ after (step { ready with cfg := { Config.default with brightReduce := .truncate }, cmds := [0x225010203] })
          (fun t => t.item == some (.byte 0xE5)) = true := by decide

/-- P6, the first clock edge: nothing is recorded of undriven lines. -/
theorem test_color_not_configured :
    after (step { State.reset with
        op := 2, bright5 := 31, red := 255, green := 255, blue := 255, busy := true, tx := true,
        pins := { Pins.reset with datLvl := true }, sub := 1 })
      (fun t => t.wire == [] && t.evt == [.setC true] && t.pins.clkLvl && t.padClk == .undriven) = true := by decide

/-- V-END: counts 17 and 65535 give 1 and 4096 padding bytes. -/
theorem test_end_padding :
    after (step { ready with cmds := [0x300000011] }) (fun t => t.count == 17 && t.npad == 1 && t.busy) = true
      ∧ after (step { ready with cmds := [0x30000FFFF] }) (fun t => t.count == 65535 && t.npad == 4096) = true := by
  decide

/-- P1, row 4: END 1 sends no padding and brings the data line low. -/
theorem test_end_one :
    after (step { ready with op := 3, count := 1, npad := 0, busy := true, tx := true, pins := { Pins.idle with datLvl := true } })
      (fun t => t.status == 0b1000#4 && !t.pins.datLvl && t.evt == [.cfg, .cfg]) = true := by decide

/-- V-WRITE: `Len` is 19 for WRITE 3, 8 and 6 for WRITE 0, 31. -/
theorem test_write_taken :
    after (step { ready with cmds := [0x408000003] })
        (fun t => t.count == 3 && t.npad == 1 && t.bright5 == 8 && t.len == 19) = true
      ∧ after (step { ready with cmds := [0x41F000000] }) (fun t => t.len == 6 && t.busy) = true := by decide

/-- P2: the fetch of pixel 1 puts 3 on `pix_addr` and reads 0x80, 0x40, 0x20. -/
theorem test_write_fetch :
    fetching.pixAddr = some 3
      ∧ after (step fetching) (fun t =>
          t.red == 0x80 && t.green == 0x40 && t.blue == 0x20 && t.draws == 2 && t.pixAddr == none
            && t.evt == [.cfg, .setD true]) = true := by decide

/-- V-RESERVED. -/
theorem test_reserved :
    after (step { ready with cmds := [0x5DEADBEEF] }) (fun t => decide (t = ready)) = true
      ∧ after (step { ready with cmds := [0x6DEADBEEF] }) (fun t => decide (t = ready)) = true
      ∧ after (step { ready with cmds := [0x7FFFFFFFF] }) (fun t => decide (t = ready)) = true := by decide

/-- V-RESET, row 3: reset wins over a word on the port. -/
theorem test_reset_wins :
    after (step { ready with cmds := [0], script := [resetting] })
      (fun t => t.cmds == [0] && t.status == 0b0000#4 && t.evt == []) = true := by decide

/-- `pix_data` carries red, green, blue from the top (`10_state.md` R34), and no address stands on `pix_addr` under
reset. -/
theorem test_pix_data :
    fetching.pixData = some 0x804020#24 ∧ ({ fetching with script := [resetting] } : State).pixAddr = none := by decide

/-- Log entry 15: the micro-step that raises the fault has no dwell; the one that performs `Cfg` has `T_CFG`. -/
theorem test_dwell_of_fault :
    ({ startTaken with script := [failNow] } : State).dwell = none ∧ startTaken.dwell = some 1 := by decide

/-! ### Wire formats, one step each -/

/-- V-BIT, `Byte(0xA5)`: the third bit is a 1 and the fourth a 0. -/
theorem test_wire_pixel_bits :
    after (exec (.wirePixel 5 0xA5 0x80 1) { colorTaken with idx := 1, bit := 2 }) (fun t =>
        t.evt == [.cfg, .setD true] && t.sub == 1 && t.tx) = true
      ∧ after (exec (.wirePixel 5 0xA5 0x80 1) { colorTaken with idx := 1, bit := 3 }) (fun t =>
        t.evt == [.cfg, .setD false]) = true := by decide

/-- V-BIT: the step at (7, 2) of a packet's last byte ends the command. -/
theorem test_wire_pixel_end :
    after (exec (.wirePixel 1 0x0F 0x55 0xAA) { clockHigh with idx := 3, bit := 7 }) (fun t =>
      !t.busy && t.idx == 0 && t.bit == 0 && t.sub == 0 && !t.pins.clkLvl) = true := by decide

/-- V-BIT, `Byte(0x00)`: a `SetD` is logged for every bit. -/
theorem test_wire_start_bit :
    after (exec .wireStartFrame { startTaken with idx := 4, bit := 6 }) (fun t =>
      t.evt == [.setD false] && t.sub == 1 && t.bit == 6) = true := by decide

/-- V-BIT, `Byte(0x00)`: the second event samples a 0. -/
theorem test_wire_pad_sample :
    after (exec .wireEndPad { ready with op := 3, count := 2, npad := 1, busy := true, sub := 1 }) (fun t =>
      t.wire == [false] && t.sub == 2 && t.pins.clkLvl) = true := by decide

/-! ### The words of the opcode table, placed and run -/

theorem test_fetch_word_command :
    after (step (State.reset.withFetchWord 40 0x20000FF00)) (fun t => t.busy && t.green == 255 && t.op == 2) = true := by
  decide
theorem test_fetch_word_wire :
    after (step (State.reset.withFetchWord 32 0)) (fun t => t.evt == [.setD false]) = true
      ∧ after (step (State.reset.withFetchWord 32 0xE0000000)) (fun t => t.evt == [.setD true]) = true
      ∧ after (step (State.reset.withFetchWord 8 0)) (fun t => t.evt == [.setD false]) = true := by decide

/-! ### Witnesses: concrete states and operands that meet the hypotheses of each obligation -/

theorem witness_TheOutputsFollowTheLatches :
    dataSet.pins.datOe = true ∧ dataSet.pins.datLvl = true ∧ dataSet.pins.clkOe = true ∧ clockHigh.pins.clkLvl = true
      ∧ State.reset.pins.datOe = false ∧ ready.busy = false ∧ ready.fault = false := by decide
theorem witness_EveryStepKeepsTheInvariant : colorTaken.Inv ∧ step colorTaken = .next dataSet :=
  ⟨inv_colorTaken, rfl⟩
theorem witness_TheBlockAlwaysTakesItsNextStep :
    fetching.Inv ∧ ready.Inv ∧ fetching.input.writesLegal fetching.cfg = true :=
  ⟨inv_fetching, inv_ready, rfl⟩
theorem witness_ResetWinsOverEverything :
    ({ clockHigh with cmds := [0], script := [{ resetting with pixWrites := [(2 ^ 18 - 1, 7)] }] } : State).input.rst = true
      ∧ ({ clockHigh with cmds := [0], script := [{ resetting with pixWrites := [(2 ^ 18 - 1, 7)] }] } : State).input.writesLegal
          Config.default = true := by decide
theorem witness_LaterResetGivesThePowerOnState :
    ({ faulted with script := [resetting] } : State).input.rst = true
      ∧ ({ faulted with script := [resetting] } : State).input.pixWrites = [] := by decide
theorem witness_DecodeOfEncodeIsTheInstruction :
    (Instr.write 65535 255).wellFormed .default = true ∧ (Instr.wirePixel 31 255 255 255).wellFormed .default = true := by
  decide
theorem witness_EveryCommandWordIsACommand : cmdOp 0x2FFFFFFFF#35 = 2 := by decide
theorem witness_IgnoredArgumentBitsChangeNothing :
    (cmdOp 0x1FFFFFFFF#35 = cmdOp 0x100000000#35 ∧ cmdOp 0x1FFFFFFFF#35 = 1)
      ∧ 5 ≤ (cmdOp 0x5DEADBEEF#35).toNat
      ∧ (cmdOp 0x3ABCDFFFF#35 = 3 ∧ cmdOp 0x30000FFFF#35 = 3
        ∧ ∀ k < 16, (cmdArg 0x3ABCDFFFF#35).getLsbD k = (cmdArg 0x30000FFFF#35).getLsbD k)
      ∧ (cmdOp 0x401FF0012#35 = 4 ∧ cmdOp 0x401000012#35 = 4
        ∧ (∀ k < 16, (cmdArg 0x401FF0012#35).getLsbD k = (cmdArg 0x401000012#35).getLsbD k)
        ∧ (cmdArg 0x401FF0012#35).extractLsb' 24 8 = (cmdArg 0x401000012#35).extractLsb' 24 8) := by decide
theorem witness_EncodingIsTheFormulaOfTheSpec :
    (65535 : Nat) < 2 ^ 16
      ∧ [0x0FFFFFFFF#35, 0x1FFFFFFFF, 0x2FFFFFFFF, 0x3FFFFFFFF, 0x4FFFFFFFF, 0x5FFFFFFFF, 0x6FFFFFFFF, 0x7FFFFFFFF].map
          (fun w => w.toNat / 2 ^ 32) = [0, 1, 2, 3, 4, 5, 6, 7] := by decide
theorem witness_BrightnessReduction : (31 : Byte).toNat ≤ 31 ∧ 31 < (32 : Byte).toNat := by decide
theorem witness_PaddingLength : (1 : Nat) ≤ 17 ∧ padBytes 17 = 1 ∧ (1 : Nat) ≤ 2 ∧ padBytes 18 = 2 := by decide
theorem witness_ItemIsTheElementOfTheExpansion :
    State.reset.op = 0 ∧ startTaken.op = 1 ∧ colorTaken.op = 2 ∧ ({ ready with op := 3 } : State).op = 3
      ∧ fetching.op = 4 ∧ 5 ≤ ({ ready with op := 7 } : State).op.toNat := by decide

/-- A ready block with a word on its port and inputs that leave it alone. -/
def offered (w : CommandWord) : State := { ready with cmds := [w] }

theorem witness_AcceptanceOfAPresentedWord (w : CommandWord) :
    (offered w).cmdReady = true ∧ (offered w).cmds = w :: [] ∧ (offered w).input.rst = false
      ∧ (offered w).input.withhold = false ∧ (offered w).input.pixWrites = [] := ⟨rfl, rfl, rfl, rfl, rfl⟩
theorem witness_AcceptanceOfAPresentedWord_operations :
    [0x000000000#35, 0x100000000, 0x21FFF0000, 0x30000FFFF, 0x41F00FFFF, 0x500000000, 0x7FFFFFFFF].map
      (fun w => w.toNat / 2 ^ 32) = [0, 1, 2, 3, 4, 5, 7] := by decide
theorem witness_AcceptanceWritesTheLatchesAndNothingElse : ready.cmdReady = true ∧ State.reset.cmdReady = true := by
  decide
theorem witness_AWordPresentedToABlockThatIsNotReadyWaits :
    ((offered 0).cmdReady = true ∧ (offered 0).input.rst = false ∧ (offered 0).input.withhold = false
        ∧ step (offered 0) = .next { ready with busy := true })
      ∧ (({ colorTaken with cmds := [0] } : State).cmdReady = false
        ∧ step { colorTaken with cmds := [0] } = .next { dataSet with cmds := [0] })
      ∧ ({ faulted with cmds := [0] } : State).cmdReady = false :=
  ⟨⟨rfl, rfl, rfl, rfl⟩, ⟨rfl, rfl⟩, rfl⟩
theorem witness_ReservedWordsAreTakenAndIgnored :
    (offered 0x5DEADBEEF).cmdReady = true ∧ (offered 0x5DEADBEEF).cmds = 0x5DEADBEEF :: [] ∧ 5 ≤ (cmdOp 0x5DEADBEEF).toNat
      ∧ (offered 0x5DEADBEEF).input.rst = false ∧ (offered 0x5DEADBEEF).input.withhold = false
      ∧ (offered 0x5DEADBEEF).input.pixWrites = [] := by decide
theorem witness_AStepRunsTheCommandOnThePort :
    (offered 0x408000003).cmdReady = true ∧ (offered 0x408000003).cmds = 0x408000003 :: []
      ∧ (offered 0x408000003).input.rst = false ∧ (offered 0x408000003).input.withhold = false
      ∧ (offered 0x408000003).input.writesLegal Config.default = true := by decide
theorem witness_AStepRunsTheWireFormatInFlight :
    fetching.busy = true ∧ fetching.fault = false ∧ fetching.input.rst = false
      ∧ fetching.input.writesLegal fetching.cfg = true
      ∧ (fetching.beginMicroStep fetching.input).fetchIfDue.pending = .frame (.wirePixel 8 0x20 0x40 0x80) := by decide
theorem witness_ThePinEventsOfABit :
    (Instr.wirePixel 1 0x0F 0x55 0xAA).isCommand = false ∧ Instr.wireStartFrame.isCommand = false
      ∧ Instr.wireEndPad.isCommand = false
      ∧ (colorTaken.busy = true ∧ colorTaken.fault = false ∧ colorTaken.sub = 0)
      ∧ dataSet.sub = 1
      ∧ (clockHigh.sub = 2 ∧ clockHigh.bit ≠ 7)
      ∧ (({ clockHigh with bit := 7 } : State).idx + 1 ≠ ({ clockHigh with bit := 7 } : State).len)
      ∧ (({ clockHigh with bit := 7, idx := 3 } : State).idx + 1 = ({ clockHigh with bit := 7, idx := 3 } : State).len) := by
  decide
theorem witness_TheStepOfACfgItem :
    (startTaken.busy = true ∧ startTaken.fault = false ∧ startTaken.input.rst = false ∧ startTaken.input.pixWrites = []
        ∧ startTaken.pending = .cfgItem ∧ startTaken.input.gpioCfgFail = false ∧ startTaken.Inv)
      ∧ (({ startTaken with script := [failNow] } : State).cfg.gpioCfgCanFail = true
        ∧ ({ startTaken with script := [failNow] } : State).input.gpioCfgFail = true) :=
  ⟨⟨rfl, rfl, rfl, rfl, rfl, rfl, inv_startTaken⟩, rfl, rfl⟩
theorem witness_OnePinEventAStep :
    (ready.input.rst = false ∧ step ready = .next ready)
      ∧ (dataSet.input.rst = false ∧ step dataSet = .next clockHigh) := ⟨⟨rfl, rfl⟩, rfl, rfl⟩
theorem witness_LinesAreConfiguredByCfgUntilReset :
    (({ clockHigh with script := [resetting] } : State).input.rst = true
        ∧ step { clockHigh with script := [resetting] } = .next State.reset)
      ∧ (startTaken.input.rst = false
        ∧ step startTaken = .next { startTaken with pins := .idle, evt := [.cfg], idx := 1 })
      ∧ (dataSet.pins.datOe = true ∧ dataSet.pins.clkOe = true ∧ step dataSet = .next clockHigh) :=
  ⟨⟨rfl, rfl⟩, ⟨rfl, rfl⟩, rfl, rfl, rfl⟩
theorem witness_TheClockRisesOnlyInAPulse :
    (dataSet.Inv ∧ dataSet.input.rst = false ∧ step dataSet = .next clockHigh ∧ dataSet.pins.clkLvl = false
        ∧ clockHigh.pins.clkLvl = true
        ∧ clockHigh.evt = dataSet.evt ++ [.setC true])
      ∧ (startTaken.Inv ∧ step startTaken = .next { startTaken with pins := .idle, evt := startTaken.evt ++ [.cfg], idx := 1 })
      ∧ (ready.Inv ∧ ready.busy = false ∧ step ready = .next ready) :=
  ⟨⟨inv_dataSet, rfl, rfl, rfl, rfl, rfl⟩, ⟨inv_startTaken, rfl⟩, inv_ready, rfl, rfl⟩
theorem witness_ThePositionMovesForward :
    colorTaken.Inv ∧ colorTaken.busy = true ∧ colorTaken.fault = false ∧ colorTaken.input.rst = false
      ∧ step colorTaken = .next dataSet := ⟨inv_colorTaken, rfl, rfl, rfl, rfl⟩
theorem witness_ABusyBlockCompletes :
    fetching.Inv ∧ fetching.busy = true ∧ fetching.fault = false ∧ fetching.undisturbed = true :=
  ⟨inv_fetching, rfl, rfl, rfl⟩
theorem witness_TheStepAfterTheFaultChangesNothingWithoutReset :
    (step { startTaken with script := [failNow] } = .next faulted ∧ startTaken.fault = false ∧ faulted.fault = true
        ∧ step faulted = .next faulted ∧ faulted.input.rst = false)
      ∧ (step { startTaken with script := [failNow, resetting] } = .next { faulted with script := [resetting] }
        ∧ step { faulted with script := [resetting] } = .next { State.reset with cfg := failing }
        ∧ ({ faulted with script := [resetting] } : State).input.rst = true) :=
  ⟨⟨rfl, rfl, rfl, rfl, rfl⟩, rfl, rfl, rfl⟩
theorem witness_TheFaultRisesOnlyAtACfgItemAndFallsOnlyByReset :
    (step { startTaken with script := [failNow] } = .next faulted ∧ startTaken.fault = false ∧ faulted.fault = true)
      ∧ (step { faulted with script := [resetting] } = .next { State.reset with cfg := failing })
      ∧ (step faulted = .next faulted ∧ faulted.input.rst = false) := ⟨⟨rfl, rfl, rfl⟩, rfl, rfl, rfl⟩
theorem witness_FaultedAndIdleBlocksStandStill :
    (faulted.input.rst = false ∧ faulted.input.writesLegal faulted.cfg = true ∧ faulted.fault = true)
      ∧ (ready.busy = false ∧ ready.presented ready.input = none)
      ∧ ({ offered 0 with script := [{ HostInput.quiet with withhold := true }] } : State).presented
          { HostInput.quiet with withhold := true } = none := by decide

/-- A ready block on a platform that fails now. -/
def failingReady : State := { State.reset with cfg := failing, script := [failNow] }

theorem witness_AFaultAtTheFirstItemSendsNothing :
    failingReady.cmdReady = true ∧ failingReady.cfg.gpioCfgCanFail = true ∧ failingReady.input.rst = false
      ∧ failingReady.input.pixWrites = [] ∧ failingReady.input.gpioCfgFail = true := by decide
theorem witness_AFaultAtTheEndComesAfterThePadding :
    ({ failingReady with script := List.replicate 24 failNow ++ failNow :: [] } : State).uninterrupted = true
      ∧ (List.replicate 24 failNow).length = 24 * padBytes 17
      ∧ ({ failingReady with script := [] ++ failNow :: [] } : State).uninterrupted = true
      ∧ ([] : List HostInput).length = 24 * padBytes 1 ∧ failingReady.cmdReady = true
      ∧ failingReady.cfg.gpioCfgCanFail = true ∧ failNow.gpioCfgFail = true := by decide
/-- Inputs for a WRITE of any count, up to the failure at its last item. -/
theorem witness_AFaultAtTheEndOfAWriteComesAfterTheWholeFrame (n : Nat) (before : List HostInput)
    (h : before = List.replicate (1 + 24 * (4 + 4 * n + padBytes n)) HostInput.quiet) :
    ({ failingReady with script := before ++ failNow :: [] } : State).cmdReady = true
      ∧ ({ failingReady with script := before ++ failNow :: [] } : State).cfg.gpioCfgCanFail = true
      ∧ ({ failingReady with script := before ++ failNow :: [] } : State).uninterrupted = true
      ∧ before.length = 1 + 24 * (4 + 4 * n + padBytes n)
      ∧ ({ failingReady with script := before ++ failNow :: [] } : State).input.gpioCfgFail = false
      ∧ failNow.gpioCfgFail = true := by
  have hq : HostInput.quiet.harmless = true ∧ failNow.harmless = true := by decide
  subst h
  refine ⟨rfl, rfl, by simp [State.uninterrupted, hq], by simp, ?_, rfl⟩
  rw [Nat.add_comm, List.replicate_succ]
  rfl
theorem witness_ARunThatIsOverStaysOverAndAFaultedOneHasNoResult :
    (ready.runStatus = .over ∧ run 1 ready = .next ready)
      ∧ (faulted.runStatus = .endedInFault ∧ faulted.fault = true
        ∧ faulted.script.all (fun inp => !inp.rst) = true)
      ∧ (colorTaken.runStatus = .underWay ∧ colorTaken.busy = true) ∧ runResult 0 ready = some ready :=
  ⟨⟨rfl, rfl⟩, ⟨rfl, rfl, rfl⟩, ⟨rfl, rfl⟩, rfl⟩
theorem witness_InitConfiguresTheLinesAndCompletes :
    State.reset.cmdReady = true ∧ State.reset.undisturbed = true := by decide
theorem witness_StartSendsTheStartFrameAndCompletes :
    ready.cmdReady = true ∧ ready.undisturbed = true
      ∧ ({ ready with script := [{ HostInput.quiet with withhold := true }] } : State).undisturbed = true := by decide
theorem witness_ColorSendsThePacketAndCompletes :
    (failingReady.cmdReady = true ∧ failingReady.uninterrupted = true
        ∧ 0xFF#8 = 0b111#3 ++ reduceBrightness failingReady.cfg.brightReduce 200)
      ∧ (0xE5#8 = 0b111#3 ++ reduceBrightness ready.cfg.brightReduce 5 ∧ (5 : Byte).toNat ≤ 31) := by decide
theorem witness_EndSendsThePaddingAndCompletes : ready.cmdReady = true ∧ ready.undisturbed = true := by decide
theorem witness_WriteSendsTheWholeFrameAndCompletes :
    ready.cmdReady = true ∧ ready.undisturbed = true ∧ State.reset.cmdReady = true ∧ State.reset.undisturbed = true := by
  decide
theorem witness_TheStartFrameGoesOut :
    ({ startTaken with idx := 1 } : State).busy = true ∧ ({ startTaken with idx := 1 } : State).fault = false
      ∧ ({ startTaken with idx := 1 } : State).uninterrupted = true
      ∧ ({ startTaken with idx := 1 } : State).pending = .frame .wireStartFrame
      ∧ ({ startTaken with idx := 1 } : State).byteIndex = 0 ∧ ({ startTaken with idx := 1 } : State).bit = 0
      ∧ ({ startTaken with idx := 1 } : State).sub = 0
      ∧ ({ fetching with idx := 1 } : State).pending = .frame .wireStartFrame
      ∧ ({ fetching with idx := 1 } : State).byteIndex = 0 := by decide
theorem witness_ThePixelPacketGoesOut :
    colorTaken.busy = true ∧ colorTaken.fault = false ∧ colorTaken.uninterrupted = true
      ∧ colorTaken.pending = .frame (.wirePixel 1 0x0F 0x55 0xAA) ∧ colorTaken.byteIndex = 0 ∧ colorTaken.bit = 0
      ∧ colorTaken.sub = 0 := by decide
theorem witness_TheEndFrameByteGoesOut :
    ({ fetching with idx := 13 } : State).busy = true ∧ ({ fetching with idx := 13 } : State).fault = false
      ∧ ({ fetching with idx := 13 } : State).uninterrupted = true
      ∧ ({ fetching with idx := 13 } : State).pending = .frame .wireEndPad
      ∧ ({ fetching with idx := 13 } : State).bit = 0 ∧ ({ fetching with idx := 13 } : State).sub = 0 := by decide
theorem witness_WhereTheInterfaceStops :
    (Instr.wireEndPad.isCommand = false ∧ ({ colorTaken with sub := 3 } : State).busy = true
        ∧ ({ colorTaken with sub := 3 } : State).fault = false ∧ ({ colorTaken with sub := 3 } : State).sub = 3)
      ∧ (ready.busy = false ∧ faulted.fault = true)
      ∧ (({ colorTaken with idx := 4 } : State).busy = true ∧ ({ colorTaken with idx := 4 } : State).fault = false
        ∧ ({ colorTaken with idx := 4 } : State).input.rst = false
        ∧ ({ colorTaken with idx := 4 } : State).len ≤ ({ colorTaken with idx := 4 } : State).idx
        ∧ ({ colorTaken with idx := 4 } : State).input.writesLegal Config.default = true)
      ∧ (({ ready with script := [{ HostInput.quiet with pixWrites := [(2 ^ 18, 0)] }] } : State).input.writesLegal
          Config.default = false)
      ∧ colorTaken.Inv := ⟨by decide, by decide, by decide, by decide, inv_colorTaken⟩
theorem witness_MicroStepsAgreeWithTheCommandMeaning :
    ((Instr.write 3 8).isCommand = true ∧ (Instr.write 3 8).wellFormed Config.default = true
        ∧ encode (.write 3 8) = .cmd 0x408000003 ∧ (offered 0x408000003).cmds = 0x408000003 :: []
        ∧ (offered 0x408000003).cmdReady = true ∧ (offered 0x408000003).undisturbed = true
        ∧ (offered 0x408000003).input.withhold = false)
      ∧ (Instr.reserved7.isCommand = true ∧ encode .reserved7 = .cmd 0x700000000) := by decide
theorem witness_WriteEqualsTheHostsOwnExpansion :
    ready.cmdReady = true ∧ ready.undisturbed = true ∧ ready.script.all (fun inp => !inp.withhold) = true
      ∧ 65535 < 2 ^ ready.cfg.countW := by decide
/-- A ready block whose host presents P1 (`95_test_vectors.md`), then one whose host presents a WRITE. -/
theorem witness_AWellFormedTransactionSendsOneCompleteTransmission :
    (wellFormedTransaction [.init, .start, .color 255 0 0 31, .endFrame 1] = true
        ∧ [Instr.init, .start, .color 255 0 0 31, .endFrame 1].all (fun i => i.wellFormed ready.cfg) = true
        ∧ [0x000000000, 0x100000000, 0x21FFF0000, 0x300000001]
          = [Instr.init, .start, .color 255 0 0 31, .endFrame 1].filterMap commandWordOf)
      ∧ (wellFormedTransaction [.write 65535 31] = true ∧ (Instr.write 65535 31).wellFormed ready.cfg = true)
      ∧ ready.cmdReady = true ∧ ready.undisturbed = true ∧ ready.script.all (fun inp => !inp.withhold) = true := by decide
theorem witness_TheHostsExpansionIsAWellFormedTransaction :
    wellFormedTransaction [.init, .init, .start, .color 1 2 3 4, .endFrame 1] = true
      ∧ wellFormedTransaction [.write 9 9] = true ∧ wellFormedTransaction [.start, .endFrame 1] = false
      ∧ wellFormedTransaction [.init, .write 1 31] = false ∧ wellFormedTransaction [.color 1 2 3 4, .endFrame 1] = false
      ∧ wellFormedTransaction [] = false := by decide
theorem witness_WriteTwiceAppendsTheSameTwice :
    ({ ready with pix := fetching.pix } : State).cmdReady = true ∧ ({ ready with pix := fetching.pix } : State).script = []
      ∧ 2 < 2 ^ ready.cfg.countW ∧ ({ ready with pix := fetching.pix } : State).holdsPixels 2 = true
      ∧ encode (.write 2 31) = .cmd 0x41F000002 := by decide
theorem witness_OnlyThePinLatchesCarryOver :
    (Instr.write 3 8).isOperation = true ∧ ready.cmdReady = true ∧ ready.undisturbed = true
      ∧ ({ ready with op := 4, count := 9, npad := 1, red := 7, tx := true } : State).cmdReady = true
      ∧ ({ ready with op := 4, count := 9, npad := 1, red := 7, tx := true } : State).pins = ready.pins := by decide
theorem witness_TheReceiverRecoversTheFrame :
    ready.cmdReady = true ∧ ready.undisturbed = true ∧ (31 : Byte).toNat ≤ 31 := by decide
theorem witness_ThePixelFetchReadsThreeBytes :
    fetching.busy = true ∧ fetching.fault = false ∧ fetching.input.rst = false
      ∧ fetching.input.writesLegal fetching.cfg = true ∧ fetching.op = 4 ∧ fetching.idx = 5 + 4 * 1 ∧ 1 < fetching.count
      ∧ fetching.bit = 0 ∧ fetching.sub = 0
      ∧ (Memory.read fetching.pix 3 = some 0x80 ∧ Memory.read fetching.pix 4 = some 0x40
        ∧ Memory.read fetching.pix 5 = some 0x20) := by decide
theorem witness_OnlyAPixelFetchReadsThePixelSpace :
    colorTaken.input.pixWrites = [] ∧ colorTaken.pixAddr = none ∧ step colorTaken = .next dataSet := ⟨rfl, rfl, rfl⟩
theorem witness_TheBlockWritesNoPixel :
    step { ready with script := [{ HostInput.quiet with pixWrites := [(4, 9)] }] } = .next { ready with pix := [(4, 9)] } :=
  rfl
theorem witness_PixelAddressesAreMultiplesOfThreeInsideTheSpace : fetching.Inv ∧ fetching.pixAddr = some 3 :=
  ⟨inv_fetching, rfl⟩
theorem witness_PixelSpaceReadsBackWhatIsWritten : Memory.wf fetching.pix = true := by decide
theorem witness_CyclesOfACommand :
    (Instr.endFrame 17).isOperation = true ∧ (Instr.endFrame 17).wellFormed Config.default = true
      ∧ encode (.endFrame 17) = .cmd 0x300000011 ∧ (offered 0x300000011).cmds = 0x300000011 :: []
      ∧ (offered 0x300000011).cmdReady = true ∧ (offered 0x300000011).undisturbed = true
      ∧ (offered 0x300000011).input.withhold = false
      ∧ (ready.cfg.tSetup = 1 ∧ ready.cfg.tHigh = 1 ∧ ready.cfg.tLow = 1 ∧ ready.cfg.tCfg = 1 ∧ ready.cfg.tAccept = 1) := by
  decide
theorem witness_IdleInstancesAddNothingToASharedClock :
    (∀ q ∈ [Pins.idle] ++ [Pins.reset], q.clkLvl = false)
      ∧ sharedClockPad ([Pins.idle] ++ { Pins.reset with clkLvl := true } :: [Pins.reset]) = .high := by decide

end Sys2Proof.Tests
end

section
/-! SUPPORT. What a step of the block leaves alone, and the one pin event it can perform (45_bit_transfer.md R149 to R153; 10_state.md R11, R30, R31). -/

namespace Sys2Proof.Machine

/-! ### Acceptance writes operand latches only -/

@[simp] theorem State.latched_cfg (s : State) (i : Instr) : (s.latched i).cfg = s.cfg := by cases i <;> rfl
@[simp] theorem State.latched_pins (s : State) (i : Instr) : (s.latched i).pins = s.pins := by cases i <;> rfl
@[simp] theorem State.latched_tx (s : State) (i : Instr) : (s.latched i).tx = s.tx := by cases i <;> rfl
@[simp] theorem State.latched_fault (s : State) (i : Instr) : (s.latched i).fault = s.fault := by cases i <;> rfl
@[simp] theorem State.latched_evt (s : State) (i : Instr) : (s.latched i).evt = s.evt := by cases i <;> rfl
@[simp] theorem State.latched_wire (s : State) (i : Instr) : (s.latched i).wire = s.wire := by cases i <;> rfl
@[simp] theorem State.latched_pix (s : State) (i : Instr) : (s.latched i).pix = s.pix := by cases i <;> rfl
@[simp] theorem State.latched_draws (s : State) (i : Instr) : (s.latched i).draws = s.draws := by cases i <;> rfl
@[simp] theorem State.latched_cmds (s : State) (i : Instr) : (s.latched i).cmds = s.cmds := by cases i <;> rfl
@[simp] theorem State.latched_script (s : State) (i : Instr) : (s.latched i).script = s.script := by cases i <;> rfl

@[simp] theorem State.len_begun (s : State) : s.begun.len = s.len := rfl

/-- The expansion of an accepted operation has a first item. -/
theorem State.len_latched_pos (s : State) {i : Instr} (ho : i.isOperation = true) : 0 < (s.latched i).len := by
  cases i with
  | init | start | color | endFrame | write => exact Nat.succ_pos _
  | reserved5 | reserved6 | reserved7 | wireStartFrame | wirePixel | wireEndPad => cases ho

/-- A decoded count fits its field (`30_encoding.md` R74, R75). -/
theorem decodeCommand_wellFormed (cfg : Config) (w : CommandWord) : (decodeCommand cfg w).wellFormed cfg = true := by
  have hn : argCount cfg (cmdArg w) < 2 ^ cfg.countW := Nat.mod_lt _ (Nat.two_pow_pos _)
  obtain ⟨h0, h1, h2, h3, h4, h5, h6, h7⟩ := decodeCommand_of_op cfg w
  obtain ho | ho | ho | ho | ho | ho | ho | ho := opCode_cases (cmdOp w)
  · rw [h0 ho]; rfl
  · rw [h1 ho]; rfl
  · rw [h2 ho]; rfl
  · rw [h3 ho]; exact decide_eq_true hn
  · rw [h4 ho]; exact decide_eq_true hn
  · rw [h5 ho]; rfl
  · rw [h6 ho]; rfl
  · rw [h7 ho]; rfl

/-! ### The two ends of a micro-step -/

theorem State.beginMicroStep_eq (inp : HostInput) (s : State) :
    s.beginMicroStep inp = { s with pix := (s.beginMicroStep inp).pix, script := s.script.tail } := by
  unfold State.beginMicroStep
  split <;> rfl

theorem State.endMicroStep_eq (inp : HostInput) (s : State) :
    s.endMicroStep inp = { s with pix := (s.endMicroStep inp).pix } := by
  unfold State.endMicroStep
  split <;> rfl

/-! ### Finishing an item -/

/-- The position after an item: 0 and not busy after the last, else the next (`45_bit_transfer.md` R153). -/
theorem State.finishItem_cases (s : State) :
    (s.idx + 1 = s.len ∧ s.finishItem.idx = 0 ∧ s.finishItem.busy = false)
      ∨ (s.idx + 1 ≠ s.len ∧ s.finishItem.idx = s.idx + 1 ∧ s.finishItem.busy = s.busy) := by
  by_cases h : s.idx + 1 = s.len
  · exact .inl ⟨h, by simp [State.finishItem, h], by simp [State.finishItem, h]⟩
  · exact .inr ⟨h, by simp [State.finishItem, h], by simp [State.finishItem, h]⟩

/-! ### The event the position names -/

theorem State.nextEvent_of_cfgItem {s : State} (hp : s.pending = .cfgItem) (hd : s.fetchDue = none) :
    s.nextEvent = some .cfg := by
  simp [State.nextEvent, State.item, State.fetchIfDue_of_none hd, hp]

theorem State.nextEvent_setD {s : State} {f : Instr} (hp : s.fetchIfDue.pending = .frame f) (hs : s.sub = 0) :
    s.nextEvent = some (.setD ((frameByte f s.byteIndex).getLsbD (7 - s.bit.toNat))) := by
  simp [State.nextEvent, State.item, hp, hs]

theorem State.nextEvent_setC_high {s : State} {f : Instr} (hp : s.pending = .frame f) (hs : s.sub = 1) :
    s.nextEvent = some (.setC true) := by
  simp [State.nextEvent, State.item, State.fetchIfDue_of_none (State.fetchDue_of_sub (s := s) (by simp [hs])), hp, hs]

theorem State.nextEvent_setC_low {s : State} {f : Instr} (hp : s.pending = .frame f) (hs : s.sub = 2) :
    s.nextEvent = some (.setC false) := by
  simp [State.nextEvent, State.item, State.fetchIfDue_of_none (State.fetchDue_of_sub (s := s) (by simp [hs])), hp, hs]

/-- Only a position at a `CfgItem` names `Cfg`. -/
theorem State.pending_of_nextEvent_cfg {s : State} (h : s.nextEvent = some .cfg) : s.pending = .cfgItem := by
  unfold State.nextEvent at h
  split at h
  · next hi =>
    have hp := State.pending_cfg_of_item hi
    rwa [State.fetchIfDue_of_none (State.fetchDue_of_cfgItem hp)] at hp
  · split at h <;> cases h
  · cases h

/-- Only the second pin event of a bit is `SetC(1)`. -/
theorem State.sub_of_nextEvent_setC_high {s : State} (h : s.nextEvent = some (.setC true)) : s.sub = 1 := by
  unfold State.nextEvent at h
  split at h
  · cases h
  · split at h
    · cases h
    · next hs => exact BitVec.eq_of_toNat_eq hs
    · cases h
    · cases h
  · cases h

/-! ### What a step does to the latches, `TX` and the logs -/

/-- From `s` to `t` no pin event happened. -/
structure Silent (s t : State) : Prop where
  evt : t.evt = s.evt
  pins : t.pins = s.pins
  tx : t.tx = s.tx
  wire : t.wire = s.wire

/-- From `s` to `t` the pin event `e` happened, and no other. -/
structure Performed (e : PinEvent) (s t : State) : Prop where
  evt : t.evt = s.evt ++ [e]
  pins : t.pins = s.pins.after e
  tx : t.tx = txAfter e s.tx
  wire : t.wire = s.wire ++ sampledBits e s.pins

/-- The event of a step can be read off its log. -/
theorem Performed.evt_iff {e e' : PinEvent} {s t : State} (h : Performed e s t) : t.evt = s.evt ++ [e'] ↔ e = e' := by
  simp [h.evt]

/-- A step without an event logs none. -/
theorem Silent.evt_ne {s t : State} (h : Silent s t) (e : PinEvent) : t.evt ≠ s.evt ++ [e] := by
  simp [h.evt]

/-- Without reset the block performs no pin event, or the one its position names. -/
theorem BlockGoes.silent_or_performed {inp : HostInput} {u b : State} (h : BlockGoes inp u b) (hr : inp.rst = false) :
    Silent u b ∨ ∃ e, u.nextEvent = some e ∧ u.busy = true ∧ u.fault = false ∧ Performed e u b := by
  cases h with
  | reset hr' => rw [hr] at hr'; cases hr'
  | faulted | waits | fails | ignores => exact .inl ⟨rfl, rfl, rfl, rfl⟩
  | accepts => exact .inl (by constructor <;> simp)
  | configures _ hf hb hp hd =>
    exact .inr ⟨.cfg, State.nextEvent_of_cfgItem hp hd, hb, hf, by constructor <;> simp⟩
  | setsData f _ hf hb hp hs => exact .inr ⟨_, State.nextEvent_setD hp hs, hb, hf, by constructor <;> simp⟩
  | raisesClock f _ hf hb hp hs => exact .inr ⟨_, State.nextEvent_setC_high hp hs, hb, hf, by constructor <;> simp⟩
  | lowersClock f _ hf hb hp hs => exact .inr ⟨_, State.nextEvent_setC_low hp hs, hb, hf, by constructor <;> simp⟩
  | endsByte f _ hf hb hp hs => exact .inr ⟨_, State.nextEvent_setC_low hp hs, hb, hf, by constructor <;> simp⟩

/-- A reset leaves the reset latches and empty logs. -/
theorem BlockGoes.of_rst {inp : HostInput} {u b : State} (h : BlockGoes inp u b) (hr : inp.rst = true) :
    b = u.resetBlock := by
  cases h with
  | reset => rfl
  | faulted hr' | fails hr' | configures hr' | setsData _ hr' | raisesClock _ hr' | lowersClock _ hr' | endsByte _ hr'
  | accepts _ _ hr' | ignores _ _ hr' | waits hr' => rw [hr] at hr'; cases hr'

/-- The block writes neither its parameters nor the pixel space. -/
theorem BlockGoes.cfg_pix {inp : HostInput} {u b : State} (h : BlockGoes inp u b) : b.cfg = u.cfg ∧ b.pix = u.pix := by
  cases h <;> simp

/-- Without reset a step performs no pin event, or the one the position names. -/
theorem step_silent_or_performed {s t : State} (h : step s = .next t) (hr : s.input.rst = false) :
    Silent s t ∨ ∃ e, (s.beginMicroStep s.input).nextEvent = some e ∧ s.busy = true ∧ s.fault = false
      ∧ Performed e s t := by
  obtain ⟨-, b, hb, rfl⟩ := step_cases h
  obtain ⟨h1, h2, h3, h4⟩ | ⟨e, he, hbusy, hf, h1, h2, h3, h4⟩ := hb.silent_or_performed hr
  · exact .inl ⟨by simpa using h1, by simpa using h2, by simpa using h3, by simpa using h4⟩
  · exact .inr ⟨e, he, by simpa using hbusy, by simpa using hf,
      by simpa using h1, by simpa using h2, by simpa using h3, by simpa using h4⟩

end Sys2Proof.Machine
end

section
/-! SUPPORT. The parts of the invariant, each kept by every micro-step of the block and by the host's writes (10_state.md R14, R22, R24, R25; 20_memory.md R41; 60_exceptions.md R162). -/

namespace Sys2Proof.Machine

/-! ### The pixel space -/

/-- The host's legal writes keep the pixel space in form and inside its addresses. -/
theorem State.PixInv.writeAll {s : State} (h : s.PixInv) {inp : HostInput} (hw : inp.writesLegal s.cfg = true)
    (q : List HostInput) : State.PixInv { s with pix := Memory.writeAll s.pix inp.pixWrites, script := q } where
  canonical := Memory.wf_writeAll h.canonical _
  inSpace := by
    refine List.all_eq_true.mpr fun c hc => ?_
    obtain hc | hc := Memory.mem_writeAll hc
    · exact List.all_eq_true.mp hw c hc
    · exact List.all_eq_true.mp h.inSpace c hc

/-- The invariant reads of the host's side the pixel space only. -/
theorem State.Inv.withHost {s : State} (h : s.Inv) {p : List Host.Cell} {q : List HostInput}
    (hp : State.PixInv { s with pix := p, script := q }) : State.Inv { s with pix := p, script := q } := by
  obtain ⟨-, ⟨p1, p2, p3, p4, p5⟩, ⟨w1, w2, w3⟩, ⟨f1, f2, f3⟩, ⟨l1, l2⟩⟩ := h
  exact ⟨hp, ⟨p1, p2, p3, p4, p5⟩, ⟨w1, w2, w3⟩, ⟨f1, f2, f3⟩, ⟨l1, l2⟩⟩

theorem State.Inv.beginMicroStep {s : State} (h : s.Inv) {inp : HostInput} (hw : inp.writesLegal s.cfg = true) :
    (s.beginMicroStep inp).Inv := by
  rw [State.beginMicroStep_eq, State.beginMicroStep_pix]
  split
  · exact h.withHost (h.pix.writeAll hw _)
  · exact h.withHost ⟨h.pix.canonical, h.pix.inSpace⟩

theorem State.Inv.endMicroStep {s : State} (h : s.Inv) {inp : HostInput} (hw : inp.writesLegal s.cfg = true) :
    (s.endMicroStep inp).Inv := by
  rw [State.endMicroStep_eq, State.endMicroStep_pix]
  split
  · exact h
  · exact h.withHost (h.pix.writeAll hw _)

/-! ### The position -/

/-- The clock is low but between the second and the third pin event of a bit (`10_state.md` R14). -/
theorem State.PositionInv.clock_low {s : State} (h : s.PositionInv) (hs : s.sub ≠ 2) : s.pins.clkLvl = false :=
  Bool.eq_false_iff.mpr fun hc => hs (h.clockHigh.mp hc)

/-- Inside a byte only the clock and `SUB` matter. -/
theorem State.positionInv_of_frame {s : State} {f : Instr} (hp : s.pending = .frame f) (hb : s.busy = true)
    (hs : s.sub ≠ 3) (hc : s.pins.clkLvl = true ↔ s.sub = 2) : s.PositionInv where
  subLegal := hs
  clockHigh := hc
  idleAtZero hb' := by rw [hb] at hb'; cases hb'
  busyInside _ := by
    by_contra hl
    rw [State.pending_nothing_iff.mpr (by omega)] at hp
    cases hp
  cfgAtZero _ hp' := by rw [hp] at hp'; cases hp'

/-- At the start of an item with the clock low. -/
theorem State.positionInv_of_itemStart {s : State} (hbit : s.bit = 0) (hsub : s.sub = 0) (hc : s.pins.clkLvl = false)
    (hidle : s.busy = false → s.idx = 0) (hin : s.busy = true → s.idx < s.len) : s.PositionInv where
  subLegal := by simp [hsub]
  clockHigh := by simp [hsub, hc]
  idleAtZero hb := ⟨hidle hb, hbit, hsub⟩
  busyInside := hin
  cfgAtZero _ _ := ⟨hbit, hsub⟩

/-- Finishing an item leaves the position at the start of the next, or at 0 in an idle block. -/
theorem State.positionInv_finishItem {s : State} (hbit : s.bit = 0) (hsub : s.sub = 0) (hc : s.pins.clkLvl = false)
    (hb : s.busy = true) (hin : s.idx < s.len) : s.finishItem.PositionInv := by
  have hstart := State.positionInv_of_itemStart (s := s.finishItem) (by simpa using hbit) (by simpa using hsub)
    (by simpa using hc)
  obtain ⟨-, hi, hb'⟩ | ⟨hl, hi, hb'⟩ := s.finishItem_cases
  · exact hstart (fun _ => hi) (fun h => by rw [hb'] at h; cases h)
  · exact hstart (fun h => by rw [hb', hb] at h; cases h) (fun _ => by rw [hi, State.len_finishItem]; omega)

theorem BlockGoes.keeps_position {inp : HostInput} {u b : State} (h : BlockGoes inp u b) (hu : u.PositionInv) :
    b.PositionInv := by
  have hin : u.busy = true → u.idx < u.len := hu.busyInside
  cases h with
  | reset => exact State.positionInv_of_itemStart rfl rfl rfl (fun _ => rfl) (fun hb => by cases hb)
  | faulted | waits => exact hu
  | fails | ignores => exact ⟨hu.subLegal, hu.clockHigh, hu.idleAtZero, hu.busyInside, hu.cfgAtZero⟩
  | configures _ _ hb hp =>
    obtain ⟨hbit, hsub⟩ := hu.cfgAtZero hb hp
    exact State.positionInv_finishItem hbit hsub rfl hb (hin hb)
  | setsData f _ _ hb hp hs =>
    have hc := hu.clock_low (by rw [hs]; decide)
    exact State.positionInv_of_frame (f := f) (by simpa using hp) (by simpa using hb) (by simp)
      (by simpa [Pins.after] using hc)
  | raisesClock f _ _ hb hp =>
    exact State.positionInv_of_frame (f := f) hp hb (by simp) (by simp [Pins.after])
  | lowersClock f _ _ hb hp =>
    exact State.positionInv_of_frame (f := f) hp hb (by simp) (by simp [Pins.after])
  | endsByte f _ _ hb => exact State.positionInv_finishItem rfl rfl rfl hb (hin hb)
  | accepts w _ _ _ hb _ _ ho =>
    have hc := hu.clock_low (by rw [(hu.idleAtZero hb).2.2]; decide)
    exact State.positionInv_of_itemStart rfl rfl (by simpa using hc) (fun _ => rfl)
      (fun _ => State.len_latched_pos _ ho)

/-! ### The widths -/

/-- The longest expansion's length fits the width of `IDX` (`10_state.md` R25). -/
theorem State.len_le {s : State} (hc : s.count < 2 ^ s.cfg.countW) (hn : s.npad < 2 ^ (s.cfg.countW - 3)) :
    s.len ≤ 2 ^ (s.cfg.countW + 3) := by
  obtain ⟨hw, -⟩ := s.cfg.countW_legal
  obtain ⟨k, hk⟩ : ∃ k, s.cfg.countW = k + 4 := ⟨s.cfg.countW - 4, by omega⟩
  have hpos : 0 < 2 ^ k := Nat.two_pow_pos k
  rw [hk, show k + 4 - 3 = k + 1 by omega] at hn
  rw [hk] at hc ⊢
  simp only [pow_add] at *
  obtain ho | ho | ho | ho | ho | ho := opCode_cases s.op
  · rw [State.len_init ho]; omega
  · rw [State.len_start ho]; omega
  · rw [State.len_color ho]; omega
  · rw [State.len_end ho]; omega
  · rw [State.len_write ho]; omega
  · rw [State.len_reserved ho]; omega

/-- A count of `COUNT_W` bits has a padding length of `COUNT_W - 3` bits (`43_end_frame.md` R122). -/
theorem padBytes_lt {cfg : Config} {n : Nat} (h : n < 2 ^ cfg.countW) : padBytes n < 2 ^ (cfg.countW - 3) := by
  obtain ⟨hw, -⟩ := cfg.countW_legal
  obtain ⟨k, hk⟩ : ∃ k, cfg.countW = k + 4 := ⟨cfg.countW - 4, by omega⟩
  have hpos : 0 < 2 ^ k := Nat.two_pow_pos k
  rw [hk, pow_add] at h
  rw [hk, show k + 4 - 3 = k + 1 by omega, pow_add, padBytes]
  omega

/-- A position inside the expansion makes the width of `IDX` follow from those of `COUNT` and `NPAD`. -/
theorem State.PositionInv.widths {s : State} (h : s.PositionInv) (hc : s.count < 2 ^ s.cfg.countW)
    (hn : s.npad < 2 ^ (s.cfg.countW - 3)) : s.WidthInv where
  count := hc
  npad := hn
  idx := by
    cases hb : s.busy with
    | false => rw [(h.idleAtZero hb).1]; exact Nat.two_pow_pos _
    | true => exact Nat.lt_of_lt_of_le (h.busyInside hb) (State.len_le hc hn)

/-- An accepted operation loads latches of the right widths. -/
theorem State.latched_widths {s : State} {i : Instr} (hi : i.wellFormed s.cfg = true)
    (hc : s.count < 2 ^ s.cfg.countW) (hn : s.npad < 2 ^ (s.cfg.countW - 3)) :
    (s.latched i).count < 2 ^ s.cfg.countW ∧ (s.latched i).npad < 2 ^ (s.cfg.countW - 3) := by
  cases i with
  | endFrame n | write n v =>
    have hi := of_decide_eq_true hi
    exact ⟨hi, padBytes_lt hi⟩
  | init | start | color | reserved5 | reserved6 | reserved7 | wireStartFrame | wirePixel | wireEndPad => exact ⟨hc, hn⟩

theorem BlockGoes.keeps_widths {inp : HostInput} {u b : State} (h : BlockGoes inp u b) (hp : u.PositionInv)
    (hw : u.WidthInv) : b.WidthInv := by
  have hcn : b.count < 2 ^ b.cfg.countW ∧ b.npad < 2 ^ (b.cfg.countW - 3) := by
    obtain ⟨hc, hn, -⟩ := hw
    cases h with
    | reset => exact ⟨Nat.two_pow_pos _, Nat.two_pow_pos _⟩
    | accepts w =>
      simpa using State.latched_widths (s := u.takeCommand) (decodeCommand_wellFormed u.cfg w) hc hn
    | faulted | fails | configures | setsData | raisesClock | lowersClock | endsByte | ignores | waits =>
      simpa using And.intro hc hn
  exact (h.keeps_position hp).widths hcn.1 hcn.2

/-! ### The fault -/

theorem State.faultInv_of_noFault {s : State} (h : s.fault = false) : s.FaultInv := by
  constructor <;> simp [h]

theorem BlockGoes.keeps_fault {inp : HostInput} {u b : State} (h : BlockGoes inp u b) (hu : u.FaultInv) :
    b.FaultInv := by
  cases h with
  | faulted => exact hu
  | fails _ _ hb hp hc =>
    exact ⟨fun _ => hb, fun _ => hp, fun _ => (Bool.and_eq_true_iff.mp hc).1⟩
  | reset => exact State.faultInv_of_noFault rfl
  | configures _ hf | setsData _ _ hf | raisesClock _ _ hf | lowersClock _ _ hf | endsByte _ _ hf | accepts _ _ _ hf
  | ignores _ _ _ hf | waits _ hf => exact State.faultInv_of_noFault (by simpa using hf)

/-! ### The logs -/

theorem Silent.keeps_logs {s t : State} (h : Silent s t) (hs : s.LogInv) : t.LogInv where
  pins := by rw [h.pins, h.evt]; exact hs.pins
  wire := by rw [h.wire, h.evt]; exact hs.wire

theorem Performed.keeps_logs {e : PinEvent} {s t : State} (h : Performed e s t) (hs : s.LogInv) : t.LogInv where
  pins := by rw [h.pins, h.evt, hs.pins, Pins.replay_eq, Pins.replay_eq, Pins.afterAll_append]; rfl
  wire := by
    rw [h.wire, h.evt, hs.wire, hs.pins, Pins.replay_eq, sampledFrom_append]
    simp

theorem BlockGoes.keeps_logs {inp : HostInput} {u b : State} (h : BlockGoes inp u b) (hu : u.LogInv) : b.LogInv := by
  cases hr : inp.rst with
  | true => rw [h.of_rst hr]; exact ⟨rfl, rfl⟩
  | false =>
    obtain hq | ⟨e, -, -, -, he⟩ := h.silent_or_performed hr
    · exact hq.keeps_logs hu
    · exact he.keeps_logs hu

/-! ### The whole invariant -/

theorem BlockGoes.keeps_inv {inp : HostInput} {u b : State} (h : BlockGoes inp u b) (hu : u.Inv) : b.Inv where
  pix := by
    obtain ⟨hc, hp⟩ := h.cfg_pix
    exact ⟨hp ▸ hu.pix.canonical, by rw [hp, hc]; exact hu.pix.inSpace⟩
  position := h.keeps_position hu.position
  widths := h.keeps_widths hu.position hu.widths
  faults := h.keeps_fault hu.faults
  logs := h.keeps_logs hu.logs

/-- Settles O4: each part of the invariant is kept by the host's writes at both ends of the micro-step and by every way
the block's own micro-step can go. -/
theorem everyStepKeepsTheInvariant : Obligations.EveryStepKeepsTheInvariant := by
  intro s t hs h
  obtain ⟨hw, b, hb, rfl⟩ := step_cases h
  obtain ⟨hc, -⟩ := hb.cfg_pix
  exact (hb.keeps_inv (hs.beginMicroStep hw)).endMicroStep (by simpa [hc] using hw)

end Sys2Proof.Machine
end

section
/-! SUPPORT. The outputs, the reset state, and the statements about one step that follow from what a step can do (10_state.md; 45_bit_transfer.md R154; 60_exceptions.md R162). -/

namespace Sys2Proof.Machine

/-! ### Outputs and reset -/

/-- The four bits of `STATUS` (`10_state.md` R19). -/
theorem State.status_bits (s : State) :
    s.status.getLsbD 0 = s.busy ∧ s.status.getLsbD 1 = s.tx ∧ s.status.getLsbD 2 = s.fault
      ∧ s.status.getLsbD 3 = s.configured := by
  have h : ∀ a b c d : Bool, let x := BitVec.ofBool a ++ BitVec.ofBool b ++ BitVec.ofBool c ++ BitVec.ofBool d
      x.getLsbD 0 = d ∧ x.getLsbD 1 = c ∧ x.getLsbD 2 = b ∧ x.getLsbD 3 = a := by decide
  exact h _ _ _ _

theorem padOf_undriven_iff (oe lvl : Bool) : padOf oe lvl = .undriven ↔ oe = false := by
  cases oe <;> cases lvl <;> decide

theorem padOf_high_iff (lvl : Bool) : padOf true lvl = .high ↔ lvl = true := by
  cases lvl <;> decide

/-- Settles O1, output by output. -/
theorem theOutputsFollowTheLatches : Obligations.TheOutputsFollowTheLatches := by
  intro s
  obtain ⟨hbusy, htx, hfault, hconf⟩ := s.status_bits
  refine ⟨hbusy, htx, hfault, hconf, padOf_undriven_iff _ _, padOf_undriven_iff _ _, fun h => ?_, fun h => ?_,
    State.cmdReady_iff⟩
  · rw [State.padDat, h, padOf_high_iff]
  · rw [State.padClk, h, padOf_high_iff]

/-- Settles O2: each value is the one `State.reset` writes. -/
theorem resetLeavesTheValuesOfTheSpec : Obligations.ResetLeavesTheValuesOfTheSpec :=
  ⟨rfl, rfl, rfl, rfl, rfl, rfl, rfl, rfl, rfl, rfl, rfl⟩

/-- Settles O3: an idle block at position 0 with no memory, no fault and no event. -/
theorem invariantHoldsAtReset : Obligations.InvariantHoldsAtReset :=
  have hp : State.reset.PositionInv :=
    State.positionInv_of_itemStart rfl rfl rfl (fun _ => rfl) (fun hb => by cases hb)
  { pix := ⟨Memory.wf_reset, rfl⟩
    position := hp
    widths := hp.widths (Nat.two_pow_pos _) (Nat.two_pow_pos _)
    faults := State.faultInv_of_noFault rfl
    logs := ⟨rfl, rfl⟩ }

/-! ### The pin event of a step -/

/-- Settles O25, from what the block's micro-step does to the latches and the logs. -/
theorem onePinEventAStep : Obligations.OnePinEventAStep := by
  intro s t hr h
  obtain ⟨h1, h2, h3, h4⟩ | ⟨e, he, hb, hf, h1, h2, h3, h4⟩ := step_silent_or_performed h hr
  · exact .inl ⟨h1, h2, h3, h4⟩
  · exact .inr ⟨e, he, hb, hf, h1, h2, h3, h4⟩

/-- An event keeps an output an output; `Cfg` makes both lines outputs (`10_state.md` R11). -/
theorem Pins.after_outputs (e : PinEvent) (p : Pins) :
    (p.datOe = true → (p.after e).datOe = true) ∧ (p.clkOe = true → (p.after e).clkOe = true)
      ∧ ((p.after e).configured = true ↔ p.configured = true ∨ e = .cfg) := by
  cases e <;> simp [Pins.after, Pins.configured]

/-- Settles O26: reset undoes the configuration, and without reset the only event that changes an output enable is
`Cfg`. -/
theorem linesAreConfiguredByCfgUntilReset : Obligations.LinesAreConfiguredByCfgUntilReset := by
  intro s t h
  refine ⟨fun hr => ?_, fun hr => ?_⟩
  · obtain ⟨-, b, hb, rfl⟩ := step_cases h
    rw [hb.of_rst hr]
    simp [State.configured, Pins.configured, Pins.reset]
  · obtain hq | ⟨e, -, -, -, he⟩ := step_silent_or_performed h hr
    · simp [State.configured, hq.pins, hq.evt]
    · rw [he.evt_iff, State.configured, State.configured, he.pins]
      exact Pins.after_outputs e s.pins

/-- Only `SetC(1)` raises the clock line (`10_state.md` R14). -/
theorem Pins.eq_setC_high_of_rise {e : PinEvent} {p : Pins} (hl : p.clkLvl = false) (hh : (p.after e).clkLvl = true) :
    e = .setC true := by
  cases e with
  | setD v => rw [show (p.after (.setD v)).clkLvl = p.clkLvl from rfl, hl] at hh; cases hh
  | setC v => rw [show v = true from hh]
  | cfg => cases hh

/-- Settles O27: the event is read off the log, and the position at which it is pending tells the level before it. -/
theorem theClockRisesOnlyInAPulse : Obligations.TheClockRisesOnlyInAPulse := by
  intro s t hs hr h
  have hidle : s.busy = false → s.pins.clkLvl = false := fun hb =>
    hs.position.clock_low (by rw [(hs.position.idleAtZero hb).2.2]; decide)
  obtain hq | ⟨e, hn, hb, -, he⟩ := step_silent_or_performed h hr
  · refine ⟨fun hl hh => ?_, fun hx => absurd hx (hq.evt_ne _), fun hx => absurd hx (hq.evt_ne _), hidle⟩
    rw [hq.pins, hl] at hh
    cases hh
  · rw [he.evt_iff, he.evt_iff, he.pins]
    refine ⟨Pins.eq_setC_high_of_rise, ?_, ?_, hidle⟩
    · rintro rfl
      have hsub : s.sub = 1 := by simpa using State.sub_of_nextEvent_setC_high hn
      exact ⟨hs.position.clock_low (by rw [hsub]; decide), rfl⟩
    · rintro rfl
      have hp : s.pending = .cfgItem := by simpa using State.pending_of_nextEvent_cfg hn
      exact ⟨hs.position.clock_low (by rw [(hs.position.cfgAtZero hb hp).2]; decide), rfl⟩

/-! ### The position moves forward -/

/-- The position as one number, in the order of `IDX`, `BIT`, `SUB` (`45_bit_transfer.md` R154). -/
def State.place (s : State) : Nat := 24 * s.idx + 3 * s.bit.toNat + s.sub.toNat

/-- Where a busy block can be after a micro-step: faulted, done, or further on. -/
def State.MovedOn (u b : State) : Prop :=
  b.fault = true ∨ (b.busy = false ∧ b.idx = 0 ∧ b.bit = 0 ∧ b.sub = 0) ∨ (b.busy = true ∧ u.place < b.place)

/-- Finishing an item moves on from any position within it. -/
theorem State.movedOn_finishItem {u s : State} (hb : s.busy = true) (hbit : s.bit = 0) (hsub : s.sub = 0)
    (hp : u.place < 24 * (s.idx + 1)) : u.MovedOn s.finishItem := by
  obtain ⟨-, hi, hb'⟩ | ⟨-, hi, hb'⟩ := s.finishItem_cases
  · exact .inr (.inl ⟨hb', hi, by simpa using hbit, by simpa using hsub⟩)
  · exact .inr (.inr ⟨by rw [hb', hb], by simpa [State.place, hi, hbit, hsub] using hp⟩)

theorem BlockGoes.moves_on {inp : HostInput} {u b : State} (h : BlockGoes inp u b) (hu : u.PositionInv)
    (hb : u.busy = true) (hf : u.fault = false) (hr : inp.rst = false) : u.MovedOn b := by
  cases h with
  | reset hr' => rw [hr] at hr'; cases hr'
  | faulted _ hf' => rw [hf] at hf'; cases hf'
  | accepts _ _ _ _ hb' | ignores _ _ _ _ hb' | waits _ _ hb' => rw [hb] at hb'; cases hb'
  | fails => exact .inl rfl
  | configures _ _ _ hp =>
    obtain ⟨hbit, hsub⟩ := hu.cfgAtZero hb hp
    exact State.movedOn_finishItem hb hbit hsub (by simp [State.place, hbit, hsub])
  | setsData f _ _ _ _ hs => exact .inr (.inr ⟨by simpa using hb, by simp [State.place, hs]⟩)
  | raisesClock f _ _ _ _ hs => exact .inr (.inr ⟨hb, by simp [State.place, hs]⟩)
  | lowersClock f _ _ _ _ hs h7 =>
    have hnext : (u.bit + 1).toNat = u.bit.toNat + 1 := by bv_omega
    have hsub : u.sub.toNat = 2 := by rw [hs]; rfl
    refine .inr (.inr ⟨hb, ?_⟩)
    show 24 * u.idx + 3 * u.bit.toNat + u.sub.toNat < 24 * u.idx + 3 * (u.bit + 1).toNat + 0
    omega
  | endsByte f _ _ _ _ hs h7 =>
    exact State.movedOn_finishItem hb rfl rfl (by simp [State.place, hs, h7]; omega)

/-- Settles O28: under the invariant each way a busy block can go faults, completes or raises `State.place`. -/
theorem thePositionMovesForward : Obligations.ThePositionMovesForward := by
  intro s t hs hb hf hr h
  obtain ⟨hw, b, hgo, rfl⟩ := step_cases h
  have hm := hgo.moves_on (hs.beginMicroStep hw).position (by simpa using hb) (by simpa using hf) hr
  simpa [State.MovedOn, State.place] using hm

/-! ### The fault -/

/-- The block raises the fault only at a failing `CfgItem`, clears it only by reset, and stands still while it holds
(`10_state.md` R17). -/
theorem BlockGoes.fault_cases {inp : HostInput} {u b : State} (h : BlockGoes inp u b) :
    (u.fault = false → b.fault = true → u.busy = true ∧ u.pending = .cfgItem ∧ inp.cfgFails u.cfg = true)
      ∧ (u.fault = true → inp.rst = false → b = u) := by
  cases h with
  | reset hr => simp [hr]
  | faulted _ hf => simp [hf]
  | fails _ hf hb hp hc => simp [hf, hb, hp, hc]
  | configures _ hf | setsData _ _ hf | raisesClock _ _ hf | lowersClock _ _ hf | endsByte _ _ hf | accepts _ _ _ hf
  | ignores _ _ _ hf | waits _ hf => simp [hf]

/-- Settles O31: the host's writes around the block's micro-step touch neither `FAULT` nor the position. -/
theorem theFaultRisesOnlyAtACfgItemAndFallsOnlyByReset :
    Obligations.TheFaultRisesOnlyAtACfgItemAndFallsOnlyByReset := by
  intro s t h
  obtain ⟨-, b, hgo, rfl⟩ := step_cases h
  obtain ⟨hrise, hstay⟩ := hgo.fault_cases
  simp only [State.beginMicroStep_fault, State.beginMicroStep_busy, State.pending_beginMicroStep,
    State.beginMicroStep_cfg, HostInput.cfgFails, Bool.and_eq_true] at hrise hstay
  refine ⟨fun hf hf' => ?_, fun hf hf' => ?_, fun hf hr => ?_⟩
  · obtain ⟨hb, hp, hcan, hfail⟩ := hrise hf (by simpa using hf')
    exact ⟨hb, hp, hfail, hcan⟩
  · by_contra hr
    rw [hstay hf (by simpa using hr)] at hf'
    simp [hf] at hf'
  · rw [hstay hf hr, State.endMicroStep_eq, State.beginMicroStep_eq]

end Sys2Proof.Machine
end

section
/-! SUPPORT. Every operation from acceptance to completion is its command-level meaning, and what that meaning depends on (45_bit_transfer.md R147, R149, R154; 10_state.md R29). -/

namespace Sys2Proof.Machine

/-! ### The fields of the command-level meaning -/

/-- Keeping the last pixel writes the colour latches and the draw counter only. -/
theorem State.keepLastPixel_eq (s : State) (i : Instr) (t : State) :
    s.keepLastPixel i t =
      { t with
        red := (s.keepLastPixel i t).red, green := (s.keepLastPixel i t).green, blue := (s.keepLastPixel i t).blue,
        draws := (s.keepLastPixel i t).draws } := by
  unfold State.keepLastPixel
  split <;> rfl

/-- What the command-level meaning of an operation does besides the operand latches and the draw counter. -/
structure State.Sent (s : State) (es : List PinEvent) (t : State) : Prop where
  cfg : t.cfg = s.cfg
  pins : t.pins = s.pins.afterAll es
  tx : t.tx = txAfterAll es s.tx
  evt : t.evt = s.evt ++ es
  wire : t.wire = s.wire ++ sampledFrom s.pins es
  busy : t.busy = false
  fault : t.fault = s.fault
  pix : t.pix = s.pix
  cmds : t.cmds = s.cmds
  script : t.script = s.script

theorem State.sent_commandMeaning (s : State) {i : Instr} (ho : i.isOperation = true) :
    s.Sent (itemEvents (s.expand i)) (s.commandMeaning i) := by
  rw [State.commandMeaning, if_pos ho, State.keepLastPixel_eq, State.performAll_eq]
  constructor <;> simp [State.completed]

/-! ### From acceptance to completion -/

/-- A walk from the first item to completion, at the command level. -/
theorem State.completed_along_begun (l : State) (es : List PinEvent) (n : Nat) :
    (l.begun.along es 0 n).completed = (l.performAll es).completed.dropInputs n := by
  rw [State.performAll_eq]
  rfl

/-- A WRITE's pixels fetched one by one leave the colour of the last. -/
theorem State.completed_along_fetchPixels (s : State) (n : Nat) (v : Byte) (es : List PinEvent) (k : Nat) :
    (((s.loadWrite n v).begun.fetchPixels n).along es 0 k).completed =
      (s.keepLastPixel (.write n v) ((s.loadWrite n v).performAll es)).completed.dropInputs k := by
  rw [State.fetchPixels_eq, State.performAll_eq]
  cases n <;> rfl

/-- An accepted operation left undisturbed runs to its command-level meaning (`45_bit_transfer.md` R147, R154). -/
theorem State.run_operation {s : State} {i : Instr} (ho : i.isOperation = true) (hr : s.cmdReady = true)
    (hu : s.undisturbed = true) :
    run (microSteps i) (s.latched i).begun = .next ((s.commandMeaning i).dropInputs (microSteps i)) := by
  rw [State.commandMeaning, if_pos ho]
  cases i with
  | init => exact (State.run_init hr hu).trans (congrArg _ (State.completed_along_begun _ _ _))
  | start => exact (State.run_start hr hu).trans (congrArg _ (State.completed_along_begun _ _ _))
  | color r g b v =>
    exact (State.run_color r g b v hr (State.uninterrupted_of_undisturbed hu)).trans
      (congrArg _ (State.completed_along_begun _ _ _))
  | endFrame n => exact (State.run_end n hr hu).trans (congrArg _ (State.completed_along_begun _ _ _))
  | write n v => exact (State.run_write n v hr hu).trans (congrArg _ (State.completed_along_fetchPixels s n v _ _))
  | reserved5 | reserved6 | reserved7 | wireStartFrame | wirePixel | wireEndPad => cases ho

/-- A ready block takes the presented word in one step (`45_bit_transfer.md` R149). -/
theorem step_takes {s : State} {w : CommandWord} {rest : List CommandWord} (hr : s.cmdReady = true)
    (hq : s.cmds = w :: rest) (hrst : s.input.rst = false) (hwh : s.input.withhold = false)
    (hw : s.input.pixWrites = []) :
    step s = exec (decodeCommand s.cfg w) (s.dropInputs 1).takeCommand := by
  obtain ⟨hb, hf⟩ := State.cmdReady_iff.mp hr
  rw [step_of_no_writes hw]
  simp [State.blockStep, hrst, hf, hb, State.idleStep, State.presented, hwh, hq]

/-- An operation on the port of an undisturbed ready block, from its acceptance to its completion. -/
theorem State.run_command {s : State} {w : CommandWord} {rest : List CommandWord} {i : Instr} (hr : s.cmdReady = true)
    (hu : s.undisturbed = true) (hq : s.cmds = w :: rest) (hwh : s.input.withhold = false)
    (hi : decodeCommand s.cfg w = i) (ho : i.isOperation = true) :
    run (1 + microSteps i) s = .next (((s.dropInputs 1).takeCommand.commandMeaning i).dropInputs (microSteps i)) := by
  obtain ⟨hrst, hw, -⟩ := State.input_calm hu
  have hr' : (s.dropInputs 1).takeCommand.cmdReady = true := hr
  have h1 := step_takes hr hq hrst hwh hw
  rw [exec_of_ready (decodeCommand_isCommand _ _) hr', hi, if_pos ho] at h1
  exact run_trans (run_one h1) (State.run_operation ho hr' (State.undisturbed_drop 1 hu))

/-! ### What an expansion depends on, and its length -/

/-- A command expands alike where the pixels it fetches are alike. -/
theorem State.expand_congr {s s' : State} {i : Instr} (hc : s'.cfg = s.cfg)
    (hp : ∀ n v, i = .write n v → ∀ k < n, s'.pixelAt k = s.pixelAt k) : s'.expand i = s.expand i := by
  cases i with
  | write n v =>
    have hmap : (List.range n).map s'.pixelAt = (List.range n).map s.pixelAt :=
      List.map_congr_left fun k hk => hp n v rfl k (List.mem_range.mp hk)
    have hflat (t : State) (b : BitVec 5) :
        (List.range n).flatMap (fun k => packetItems b (t.pixelAt k))
          = ((List.range n).map t.pixelAt).flatMap (packetItems b) := by rw [List.flatMap_map]
    rw [State.expand, State.expand, hflat, hflat, hmap, hc]
  | color r g b v => rw [State.expand, State.expand, hc]
  | init | start | endFrame | reserved5 | reserved6 | reserved7 | wireStartFrame | wirePixel | wireEndPad => rfl

/-- A held byte does not depend on the number of the fetch. -/
theorem Memory.fetchByte_of_held {m : List Host.Cell} {a : Nat} (h : (Memory.read m a).isSome = true) (d d' : Nat) :
    Memory.fetchByte m d a = Memory.fetchByte m d' a := by
  obtain ⟨b, hb⟩ := Option.isSome_iff_exists.mp h
  simp [Memory.fetchByte, hb]

/-- Pixels the host holds are fetched alike at any time. -/
theorem State.pixelAt_of_holds {s s' : State} {n k : Nat} (hpix : s'.pix = s.pix) (h : s.holdsPixels n = true)
    (hk : k < n) : s'.pixelAt k = s.pixelAt k := by
  have held : ∀ a < 3 * n, (Memory.read s.pix a).isSome = true := fun a ha =>
    List.all_eq_true.mp h a (List.mem_range.mpr ha)
  simp only [State.pixelAt, hpix, Pixel.mk.injEq]
  exact ⟨Memory.fetchByte_of_held (held _ (by omega)) _ _, Memory.fetchByte_of_held (held _ (by omega)) _ _,
    Memory.fetchByte_of_held (held _ (by omega)) _ _⟩

theorem itemEvents_length (its : List Item) : (itemEvents its).length = stepsOf its := by
  induction its with
  | nil => rfl
  | cons it its ih =>
    rw [itemEvents_cons, List.length_append, ih, stepsOf_cons]
    cases it <;> rfl

/-- Configured lines put on `WIRE` exactly the bits of the items, whatever the latches' levels are (`10_state.md` R31). -/
theorem sampledFrom_itemEvents (its : List Item) {p : Pins} (hp : p.configured = true) :
    sampledFrom p (itemEvents its) = itemBits its := by
  induction its generalizing p with
  | nil => rfl
  | cons it its ih =>
    rw [itemEvents_cons, sampledFrom_append]
    cases it with
    | byte v =>
      rw [Item.events, xferByte, sampledFrom_bits, if_pos hp, Pins.afterAll_bits, ih (by exact hp)]
      rfl
    | cfgItem => exact ih rfl

/-- After a leading `Cfg` the lines are configured. -/
theorem sampledFrom_cfgItem_cons (p : Pins) (its : List Item) :
    sampledFrom p (itemEvents (.cfgItem :: its)) = itemBits its :=
  sampledFrom_itemEvents its (p := .idle) rfl

/-- The items of a WRITE after its first `CfgItem`. -/
def State.writeTail (s : State) (n : Nat) (v : Byte) : List Item :=
  List.replicate 4 (.byte 0)
    ++ ((List.range n).flatMap (fun i => packetItems (reduceBrightness s.cfg.brightReduce v) (s.pixelAt i))
      ++ endItems (padBytes n))

theorem State.expand_write (s : State) (n : Nat) (v : Byte) :
    s.expand (.write n v) = .cfgItem :: s.writeTail n v := by
  rw [State.expand, List.append_assoc]
  rfl

theorem stepsOf_packets (v : BitVec 5) (px : Nat → Pixel) (n : Nat) :
    stepsOf ((List.range n).flatMap (fun i => packetItems v (px i))) = 96 * n := by
  induction n with
  | zero => rfl
  | succ n ih =>
    rw [List.range_succ, List.flatMap_append, stepsOf_append, ih]
    rfl

theorem itemBits_append (a b : List Item) : itemBits (a ++ b) = itemBits a ++ itemBits b := List.flatMap_append

theorem itemBits_zeros_length (n : Nat) : (itemBits (List.replicate n (.byte 0))).length = 8 * n := by
  simp [itemBits, List.length_flatMap, Item.bits, Nat.mul_comm]

theorem itemBits_packets_length (v : BitVec 5) (px : Nat → Pixel) (n : Nat) :
    (itemBits ((List.range n).flatMap (fun i => packetItems v (px i)))).length = 32 * n := by
  induction n with
  | zero => rfl
  | succ n ih =>
    rw [List.range_succ, List.flatMap_append, itemBits_append, List.length_append, ih]
    rfl

/-- A WRITE's events are as many as its steps (`45_bit_transfer.md` R154). -/
theorem State.events_write_length (s : State) (n : Nat) (v : Byte) :
    (itemEvents (s.expand (.write n v))).length = microSteps (.write n v) := by
  rw [itemEvents_length, State.expand_write, State.writeTail, endItems]
  simp only [stepsOf_cons, stepsOf_append, stepsOf_zeros, stepsOf_packets, stepsOf_nil, Item.steps, microSteps]
  omega

/-- A WRITE's bits are those of its `4 + 4 * n + NPAD` bytes (`44_write.md` R135). -/
theorem State.bits_write_length (s : State) (n : Nat) (v : Byte) :
    (itemBits (s.writeTail n v)).length = 8 * (4 + 4 * n + padBytes n) := by
  have hcfg : (itemBits [.cfgItem]).length = 0 := rfl
  simp only [State.writeTail, endItems, itemBits_append, List.length_append, itemBits_zeros_length,
    itemBits_packets_length, hcfg]
  omega

/-! ### The same WRITE twice -/

/-- Decoding an encoded WRITE gives it back (`30_encoding.md` R75, R81). -/
theorem decodeCommand_write {cfg : Config} {n : Nat} (v : Byte) (hn : n < 2 ^ cfg.countW) :
    decodeCommand cfg (commandWord 4 (v ++ BitVec.ofNat 24 n)) = .write n v := by
  have h24 : n < 2 ^ 24 := Nat.lt_of_lt_of_le hn (Nat.pow_le_pow_right (by decide) cfg.countW_legal.2)
  have hcount : argCount cfg (v ++ BitVec.ofNat 24 n) = n := by
    have hdvd : 2 ^ cfg.countW ∣ 2 ^ 24 := Nat.pow_dvd_pow 2 cfg.countW_legal.2
    rw [argCount, BitVec.toNat_append, BitVec.toNat_ofNat, Nat.mod_eq_of_lt h24, ← Nat.shiftLeft_add_eq_or_of_lt h24,
      Nat.shiftLeft_eq, Nat.add_mod, Nat.mod_eq_zero_of_dvd (Nat.dvd_mul_left_of_dvd hdvd _), Nat.zero_add, Nat.mod_mod,
      Nat.mod_eq_of_lt hn]
  have hbr : argBr8 (v ++ BitVec.ofNat 24 n) = v := by
    ext i hi
    rw [argBr8, BitVec.getElem_extractLsb', BitVec.getLsbD_append]
    simp [hi]
  obtain ⟨-, -, -, -, h4, -⟩ := decodeCommand_of_op cfg (commandWord 4 (v ++ BitVec.ofNat 24 n))
  rw [h4 (cmdOp_commandWord _ _), cmdArg_commandWord, hcount, hbr]

/-- One WRITE from the port with quiet inputs: what it sends, and that the block is ready again. -/
theorem State.run_presented_write {s : State} {n : Nat} {v : Byte} {rest : List CommandWord} (hr : s.cmdReady = true)
    (hs : s.script = []) (hn : n < 2 ^ s.cfg.countW)
    (hq : s.cmds = commandWord 4 (v ++ BitVec.ofNat 24 n) :: rest) :
    ∃ t, run (1 + microSteps (.write n v)) s = .next t ∧ t.cmdReady = true ∧ t.script = [] ∧ t.cfg = s.cfg
      ∧ t.pix = s.pix ∧ t.cmds = rest ∧ t.evt = s.evt ++ itemEvents (s.expand (.write n v))
      ∧ t.wire = s.wire ++ itemBits (s.writeTail n v) := by
  have hu : s.undisturbed = true := by rw [State.undisturbed, hs]; rfl
  have hwh : s.input.withhold = false := by rw [State.input, hs]; rfl
  have hsent := (s.dropInputs 1).takeCommand.sent_commandMeaning (i := .write n v) rfl
  refine ⟨_, State.run_command hr hu hq hwh (decodeCommand_write v hn) rfl, ?_, ?_, hsent.cfg, hsent.pix, ?_, hsent.evt,
    ?_⟩
  · exact State.cmdReady_iff.mpr ⟨hsent.busy, hsent.fault.trans (State.cmdReady_iff.mp hr).2⟩
  · simp [hsent.script, hs]
  · simp [hsent.cmds, hq]
  · rw [State.dropInputs_wire, hsent.wire, State.expand_write, sampledFrom_cfgItem_cons]
    rfl

/-- Settles O50: the second WRITE starts from another draw counter and other latches, on which neither its expansion nor
its bits depend while the host holds its pixels. -/
theorem writeTwiceAppendsTheSameTwice : Obligations.WriteTwiceAppendsTheSameTwice := by
  intro s n v w hr hs hn hh hw
  obtain rfl : commandWord 4 (v ++ BitVec.ofNat 24 n) = w := by injection hw
  obtain ⟨t, ht, htr, hts, htc, htp, htq, hte, htw⟩ :=
    State.run_presented_write (s := { s with cmds := [_, _] }) hr hs hn rfl
  obtain ⟨u, hu, -, -, -, -, -, hue, huw⟩ := State.run_presented_write htr hts (by rw [htc]; exact hn) htq
  have hx : t.expand (.write n v) = s.expand (.write n v) :=
    State.expand_congr htc fun m x hm k hk => by
      cases hm
      exact State.pixelAt_of_holds htp hh hk
  have hb : t.writeTail n v = s.writeTail n v := by
    rw [State.expand_write, State.expand_write] at hx
    exact List.tail_eq_of_cons_eq hx
  exact ⟨t, u, itemEvents (s.expand (.write n v)), itemBits (s.writeTail n v), ht, hu, hte, by rw [hue, hx], htw,
    by rw [huw, hb], s.events_write_length n v, s.bits_write_length n v⟩

/-! ### Two blocks with the same pin latches -/

theorem isCommand_of_isOperation {i : Instr} (ho : i.isOperation = true) : i.isCommand = true := by
  cases i with
  | init | start | color | endFrame | write => rfl
  | reserved5 | reserved6 | reserved7 | wireStartFrame | wirePixel | wireEndPad => cases ho

/-- An operation expands to at least one item. -/
theorem State.expand_eq_cons (s : State) {i : Instr} (ho : i.isOperation = true) :
    ∃ it its, s.expand i = it :: its := by
  cases i with
  | init | start | color | write => exact ⟨_, _, rfl⟩
  | endFrame n =>
    have hne : s.expand (.endFrame n) ≠ [] := by simp [State.expand, endItems]
    exact List.exists_cons_of_ne_nil hne
  | reserved5 | reserved6 | reserved7 | wireStartFrame | wirePixel | wireEndPad => cases ho

/-- Every item's first event is a `SetD` or a `Cfg`, so an item's events leave no trace of the old `TX`. -/
theorem txAfterAll_itemEvents_cons (it : Item) (its : List Item) (tx tx' : Bool) :
    txAfterAll (itemEvents (it :: its)) tx = txAfterAll (itemEvents (it :: its)) tx' := by
  cases it <;> rfl

/-- Settles O51: both blocks run to their command-level meanings, whose events are those of one expansion and whose bits
and latches follow from the events and the common pin latches. -/
theorem onlyThePinLatchesCarryOver : Obligations.OnlyThePinLatchesCarryOver := by
  intro s s' i ho hr hr' hu hscript hc hpins hpix hdraws
  have hu' : s'.undisturbed = true := by rw [State.undisturbed, hscript]; exact hu
  have hcmd := isCommand_of_isOperation ho
  have hx : s'.expand i = s.expand i :=
    State.expand_congr hc fun _ _ _ k _ => by simp [State.pixelAt, hpix, hdraws]
  have h := s.sent_commandMeaning ho
  have h' := s'.sent_commandMeaning ho
  rw [hx] at h'
  obtain ⟨it, its, hits⟩ := s.expand_eq_cons ho
  have htx : txAfterAll (itemEvents (s.expand i)) s.tx = txAfterAll (itemEvents (s.expand i)) s'.tx := by
    rw [hits]
    exact txAfterAll_itemEvents_cons it its _ _
  refine ⟨_, _, _, _, itemEvents (s.expand i), sampledFrom s.pins (itemEvents (s.expand i)),
    (exec_of_ready hcmd hr).trans (by rw [if_pos ho]), (exec_of_ready hcmd hr').trans (by rw [if_pos ho]),
    State.run_operation ho hr hu, State.run_operation ho hr' hu', h.evt, h'.evt, h.wire, ?_, ?_, ?_⟩
  · rw [State.dropInputs_wire, h'.wire, hpins]
  · rw [State.dropInputs_pins, State.dropInputs_pins, h.pins, h'.pins, hpins]
  · rw [State.dropInputs_tx, State.dropInputs_tx, h.tx, h'.tx, htx]

end Sys2Proof.Machine
end

section
/-! SUPPORT. The pixel space: read after write, that the block writes no byte of it, which addresses it reads, and that no other micro-step depends on it (20_memory.md R41 to R43, R51; 44_write.md R134). -/

namespace Sys2Proof.Machine

/-! ### Reads and writes -/

/-- Settles O57, by the laws of one write and of several. -/
theorem pixelSpaceReadsBackWhatIsWritten : Obligations.PixelSpaceReadsBackWhatIsWritten :=
  fun m ws a b x => ⟨Memory.read_write m a b x, fun h => Memory.wf_writeAll h ws⟩

/-- Settles O55: the block's own micro-step leaves the pixel space alone, and the host's writes land at exactly one end
of it. -/
theorem theBlockWritesNoPixel : Obligations.TheBlockWritesNoPixel := by
  intro s t h
  obtain ⟨-, b, hb, rfl⟩ := step_cases h
  obtain ⟨-, hpix⟩ := hb.cfg_pix
  rw [State.endMicroStep_pix, hpix, State.beginMicroStep_pix]
  split <;> rfl

/-! ### Addresses -/

/-- An address on `pix_addr` is that of the pixel a block at work fetches. -/
theorem State.pixAddr_some {s : State} {a : Nat} (h : s.pixAddr = some a) :
    s.busy = true ∧ s.fault = false ∧ s.input.rst = false ∧ ∃ i, s.fetchDue = some i ∧ a = 3 * i := by
  unfold State.pixAddr at h
  split at h
  · next hc =>
    simp only [Bool.and_eq_true, Bool.not_eq_true'] at hc
    obtain ⟨⟨hb, hf⟩, hr⟩ := hc
    obtain ⟨i, hi, rfl⟩ := Option.map_eq_some_iff.mp h
    exact ⟨hb, hf, hr, i, hi, rfl⟩
  · cases h

/-- Without an address on `pix_addr` a block at work has no pixel to fetch. -/
theorem State.fetchDue_of_pixAddr_none {s : State} (h : s.pixAddr = none) (hb : s.busy = true) (hf : s.fault = false)
    (hr : s.input.rst = false) : s.fetchDue = none := by
  simpa [State.pixAddr, hb, hf, hr] using h

/-- Settles O56: a due fetch stands at the control byte of a pixel below `COUNT`, and `COUNT` has `COUNT_W` bits. -/
theorem pixelAddressesAreMultiplesOfThreeInsideTheSpace :
    Obligations.PixelAddressesAreMultiplesOfThreeInsideTheSpace := by
  intro s a hinv h
  obtain ⟨hb, hf, hr, i, hd, rfl⟩ := State.pixAddr_some h
  obtain ⟨hop, hbit, hsub, hi, hidx⟩ := State.fetchDue_some hd
  have hcount := hinv.widths.count
  have hspace : 2 ^ (s.cfg.countW + 2) = 4 * 2 ^ s.cfg.countW := by rw [Nat.pow_add, Nat.mul_comm]
  exact ⟨hb, hf, hr, hop, ⟨i, hi, rfl, hidx, hbit, hsub⟩, by omega, by omega⟩

/-! ### The ways of the micro-step are the block's -/

theorem State.fetchDue_of_pending_cfgItem {s : State} (h : s.pending = .cfgItem) : s.fetchDue = none := by
  cases hd : s.fetchDue with
  | none => rfl
  | some i =>
    obtain ⟨hop, -, -, hi, hidx⟩ := State.fetchDue_some hd
    obtain ⟨hc⟩ := State.pending_cfgItem_cases h
    simp [hop] at hc
    omega

theorem State.blockStep_of_busy {inp : HostInput} {u : State} (hr : inp.rst = false) (hf : u.fault = false)
    (hb : u.busy = true) : u.blockStep inp = u.busyStep inp := by
  simp [State.blockStep, hr, hf, hb]

/-- The pin-event step at a `CfgItem`. -/
theorem State.blockStep_of_cfgItem {inp : HostInput} {u : State} (hr : inp.rst = false) (hf : u.fault = false)
    (hb : u.busy = true) (hp : u.pending = .cfgItem) :
    u.blockStep inp = .next (u.cfgItemStep (inp.cfgFails u.cfg)) := by
  rw [State.blockStep_of_busy hr hf hb, State.busyStep, State.fetchIfDue_of_none (State.fetchDue_of_pending_cfgItem hp)]
  simp only [hp]

/-- The pin-event step in a wire format. -/
theorem State.blockStep_of_frame {inp : HostInput} {u : State} {f : Instr} (hr : inp.rst = false)
    (hf : u.fault = false) (hb : u.busy = true) (hp : u.fetchIfDue.pending = .frame f) :
    u.blockStep inp = u.fetchIfDue.byteStep (frameByte f u.byteIndex) := by
  rw [State.blockStep_of_busy hr hf hb, State.busyStep]
  simp only [hp]
  rw [exec_of_frame (State.pending_frame_isCommand hp), State.byteIndex_fetchIfDue]

/-- The pin-event step in a wire format after the first pin event of a bit, where no pixel is fetched. -/
theorem State.blockStep_of_clock {inp : HostInput} {u : State} {f : Instr} (hr : inp.rst = false)
    (hf : u.fault = false) (hb : u.busy = true) (hp : u.pending = .frame f) (hs : u.sub ≠ 0) :
    u.blockStep inp = u.byteStep (frameByte f u.byteIndex) := by
  have he := State.fetchIfDue_of_none (State.fetchDue_of_sub hs)
  rw [State.blockStep_of_frame hr hf hb (by rwa [he]), he]

/-- The step of a ready block to which a word is presented. -/
theorem State.blockStep_of_presented {inp : HostInput} {u : State} {w : CommandWord} {rest : List CommandWord}
    (hr : inp.rst = false) (hf : u.fault = false) (hb : u.busy = false) (hw : inp.withhold = false)
    (hq : u.cmds = w :: rest) :
    u.blockStep inp = .next (if (decodeCommand u.cfg w).isOperation then
      (u.takeCommand.latched (decodeCommand u.cfg w)).begun else u.takeCommand) := by
  have hready : u.takeCommand.cmdReady = true := by simp [State.cmdReady, hb, hf]
  rw [← exec_of_ready (decodeCommand_isCommand _ _) hready]
  simp [State.blockStep, State.idleStep, State.presented, hr, hf, hb, hw, hq]

/-- The converse of `blockStep_cases`: each of the ways is the block's micro-step. -/
theorem BlockGoes.blockStep_eq {inp : HostInput} {u b : State} (h : BlockGoes inp u b) : u.blockStep inp = .next b := by
  cases h with
  | reset hr => simp [State.blockStep, hr]
  | faulted hr hf => simp [State.blockStep, hr, hf]
  | fails hr hf hb hp hc | configures hr hf hb hp _ hc =>
    rw [State.blockStep_of_cfgItem hr hf hb hp, hc]
    rfl
  | setsData f hr hf hb hp hs =>
    rw [State.blockStep_of_frame hr hf hb hp,
      byteStep_sub0 _ (by simpa using hb) (by simpa using hf) (by simpa using hs), State.fetchIfDue_bit]
  | raisesClock f hr hf hb hp hs =>
    rw [State.blockStep_of_clock hr hf hb hp (by simp [hs]), byteStep_sub1 _ hb hf hs]
  | lowersClock f hr hf hb hp hs h7 =>
    rw [State.blockStep_of_clock hr hf hb hp (by simp [hs]), byteStep_sub2 _ hb hf hs h7]
  | endsByte f hr hf hb hp hs h7 =>
    rw [State.blockStep_of_clock hr hf hb hp (by simp [hs]), byteStep_sub2_last _ hb hf hs h7]
  | accepts w rest hr hf hb hw hq ho => rw [State.blockStep_of_presented hr hf hb hw hq, if_pos ho]
  | ignores w rest hr hf hb hw hq ho => rw [State.blockStep_of_presented hr hf hb hw hq, ho]; rfl
  | waits hr hf hb hq => simp [State.blockStep, State.idleStep, hr, hf, hb, hq]

/-! ### Another pixel space -/

/-- The same block and host beside the pixel space `p`. -/
def State.withPix (p : List Host.Cell) (s : State) : State := { s with pix := p }

theorem State.finishItem_withPix (p : List Host.Cell) (s : State) :
    (s.withPix p).finishItem = s.finishItem.withPix p := by
  rw [State.finishItem, State.finishItem, apply_ite (State.withPix p)]
  rfl

theorem State.latched_withPix (p : List Host.Cell) (s : State) (i : Instr) :
    (s.withPix p).latched i = (s.latched i).withPix p := by
  cases i <;> rfl

/-- A micro-step of the block that fetches no pixel goes the same way beside any pixel space. -/
theorem BlockGoes.withPix {inp : HostInput} {u b : State} (h : BlockGoes inp u b)
    (hd : inp.rst = false → u.fault = false → u.busy = true → u.fetchDue = none) (p : List Host.Cell) :
    BlockGoes inp (u.withPix p) (b.withPix p) := by
  cases h with
  | reset hr => exact .reset hr
  | faulted hr hf => exact .faulted hr hf
  | fails hr hf hb hp hc => exact .fails hr hf hb hp hc
  | configures hr hf hb hp hnone hc =>
    rw [← State.finishItem_withPix]
    exact .configures hr hf hb hp hnone hc
  | setsData f hr hf hb hp hs =>
    have he := State.fetchIfDue_of_none (hd hr hf hb)
    have he' : (u.withPix p).fetchIfDue = u.withPix p := State.fetchIfDue_of_none (hd hr hf hb)
    rw [he] at hp ⊢
    have hgo := BlockGoes.setsData (inp := inp) (u := u.withPix p) f hr hf hb (by rw [he']; exact hp) hs
    rwa [he'] at hgo
  | raisesClock f hr hf hb hp hs => exact .raisesClock f hr hf hb hp hs
  | lowersClock f hr hf hb hp hs h7 => exact .lowersClock f hr hf hb hp hs h7
  | endsByte f hr hf hb hp hs h7 =>
    rw [← State.finishItem_withPix]
    exact .endsByte f hr hf hb hp hs h7
  | accepts w rest hr hf hb hw hq ho =>
    have hgo := BlockGoes.accepts (u := u.withPix p) w rest hr hf hb hw hq ho
    rwa [show (u.withPix p).takeCommand = u.takeCommand.withPix p from rfl, State.latched_withPix] at hgo
  | ignores w rest hr hf hb hw hq ho => exact .ignores w rest hr hf hb hw hq ho
  | waits hr hf hb hq => exact .waits hr hf hb hq

/-- Settles O54: the only way of the micro-step that reads the pixel space is a pixel fetch, and each other way is open
beside any pixel space. -/
theorem onlyAPixelFetchReadsThePixelSpace : Obligations.OnlyAPixelFetchReadsThePixelSpace := by
  intro s t p hw ha h
  rw [step_of_no_writes hw] at h
  have hgo := (blockStep_cases h).withPix (fun hr hf hb => State.fetchDue_of_pixAddr_none (s := s) ha hb hf hr) p
  exact (step_of_no_writes (s := s.withPix p) hw).trans hgo.blockStep_eq

end Sys2Proof.Machine
end

section
/-! SUPPORT. Decoding undoes encoding, and encoding undoes decoding but for the ignored argument bits (30_encoding.md R60 to R81). -/

namespace Sys2Proof

/-! ### Decoding an encoded instruction -/

/-- Decoding an encoded COLOR gives it back (`30_encoding.md` R73). -/
theorem decodeCommand_color (cfg : Config) (r g b v : Byte) :
    decodeCommand cfg (commandWord 2 (v ++ r ++ g ++ b)) = .color r g b v := by
  obtain ⟨hv, hr, hg, hb⟩ := color_fields v r g b
  obtain ⟨-, -, h2, -⟩ := decodeCommand_of_op cfg (commandWord 2 (v ++ r ++ g ++ b))
  rw [h2 (cmdOp_commandWord _ _), cmdArg_commandWord, hv, hr, hg, hb]

/-- Decoding an encoded END gives it back (`30_encoding.md` R74). -/
theorem decodeCommand_endFrame {cfg : Config} {n : Nat} (hn : n < 2 ^ cfg.countW) :
    decodeCommand cfg (commandWord 3 (BitVec.ofNat 32 n)) = .endFrame n := by
  have hw : cfg.countW ≤ 32 := by have := cfg.countW_legal.2; omega
  have h32 : n < 2 ^ 32 := Nat.lt_of_lt_of_le hn (Nat.pow_le_pow_right (by decide) hw)
  obtain ⟨-, -, -, h3, -⟩ := decodeCommand_of_op cfg (commandWord 3 (BitVec.ofNat 32 n))
  rw [h3 (cmdOp_commandWord _ _), cmdArg_commandWord, argCount, BitVec.toNat_ofNat, Nat.mod_eq_of_lt h32,
    Nat.mod_eq_of_lt hn]

/-- Decoding a pixel packet gives its fields back; the marker tells it from the start frame (`30_encoding.md` R62). -/
theorem decodeWire32_pixelWord (v : BitVec 5) (b g r : Byte) :
    decodeWire32 (pixelWord v b g r) = .ok (.wirePixel v b g r) := by
  obtain ⟨hm, hv, hb, hg, hr⟩ := pixelWord_fields v b g r
  have hne : pixelWord v b g r ≠ 0 := by
    intro h0
    rw [h0] at hm
    exact absurd hm (by decide)
  rw [decodeWire32, if_neg hne, if_pos hm, hv, hb, hg, hr]

/-- Settles O8, format by format and operation by operation. -/
theorem decodeOfEncodeIsTheInstruction : Obligations.DecodeOfEncodeIsTheInstruction := by
  intro cfg i hi
  cases i with
  | init | start | reserved5 | reserved6 | reserved7 | wireStartFrame | wireEndPad => rfl
  | color r g b v => exact congrArg Except.ok (decodeCommand_color cfg r g b v)
  | endFrame n => exact congrArg Except.ok (decodeCommand_endFrame (of_decide_eq_true hi))
  | write n v => exact congrArg Except.ok (Machine.decodeCommand_write v (of_decide_eq_true hi))
  | wirePixel v b g r => exact decodeWire32_pixelWord v b g r

/-! ### Encoding a decoded command -/

/-- The operation code of an instruction's command word (`30_encoding.md` R70, R77); a wire format has none, and 0
stands in its place. -/
def Instr.opCode : Instr → BitVec 3
  | .init => 0
  | .start => 1
  | .color .. => 2
  | .endFrame _ => 3
  | .write .. => 4
  | .reserved5 => 5
  | .reserved6 => 6
  | .reserved7 => 7
  | .wireStartFrame | .wirePixel .. | .wireEndPad => 0

/-- A word's operation code can be read off the instruction it decodes to. -/
theorem opCode_decodeCommand (cfg : Config) (w : CommandWord) : (decodeCommand cfg w).opCode = cmdOp w := by
  obtain ho | ho | ho | ho | ho | ho | ho | ho := Machine.opCode_cases (cmdOp w) <;>
    (rw [decodeCommand, ho]; rfl)

/-- A command is encoded as a command word. -/
theorem encode_of_isCommand {i : Instr} (hi : i.isCommand = true) : ∃ c, encode i = .cmd c := by
  cases i with
  | init | start | color | endFrame | write | reserved5 | reserved6 | reserved7 => exact ⟨_, rfl⟩
  | wireStartFrame | wirePixel | wireEndPad => cases hi

/-- An argument is its four bytes. -/
theorem argBytes (a : BitVec 32) : argBr8 a ++ argRed a ++ argGreen a ++ argBlue a = a := by
  apply BitVec.eq_of_getLsbD_eq
  intro i hi
  simp only [argBr8, argRed, argGreen, argBlue, BitVec.getLsbD_append, BitVec.getLsbD_extractLsb']
  interval_cases i <;> rfl

/-- COLOR ignores no argument bit: its encoding is the word itself (`30_encoding.md` R73). -/
theorem encode_decodeCommand_color (cfg : Config) {w : CommandWord} (ho : cmdOp w = 2) :
    encode (decodeCommand cfg w) = .cmd w := by
  obtain ⟨-, -, h2, -⟩ := decodeCommand_of_op cfg w
  rw [h2 ho, encode, argBytes, ← ho, commandWord_fields]

/-- Settles O9: the encoding decodes to the same instruction by O8, and an instruction tells its operation code. -/
theorem everyCommandWordIsACommand : Obligations.EveryCommandWordIsACommand := by
  intro cfg w
  have hwf := Machine.decodeCommand_wellFormed cfg w
  have hcmd := Machine.decodeCommand_isCommand cfg w
  obtain ⟨c, hc⟩ := encode_of_isCommand hcmd
  have hdec : decodeCommand cfg c = decodeCommand cfg w := by
    have h := decodeOfEncodeIsTheInstruction cfg _ hwf
    rw [hc] at h
    exact Except.ok.inj h
  refine ⟨hwf, hcmd, c, hc, ?_, hdec, fun ho => ?_⟩
  · rw [← opCode_decodeCommand cfg c, hdec, opCode_decodeCommand]
  · rw [encode_decodeCommand_color cfg ho] at hc
    exact (RawWord.cmd.inj hc).symm

/-! ### Ignored argument bits -/

/-- The count is read from the bits below `COUNT_W` only (`30_encoding.md` R76). -/
theorem argCount_congr {cfg : Config} {a a' : BitVec 32} (h : ∀ k < cfg.countW, a.getLsbD k = a'.getLsbD k) :
    argCount cfg a = argCount cfg a' := by
  refine Nat.eq_of_testBit_eq fun k => ?_
  rw [argCount, argCount, Nat.testBit_mod_two_pow, Nat.testBit_mod_two_pow]
  by_cases hk : k < cfg.countW
  · rw [BitVec.testBit_toNat, BitVec.testBit_toNat, h k hk]
  · simp [hk]

/-- Settles O10: the decoder reads the operation code, and of the argument the fields of the operation. -/
theorem ignoredArgumentBitsChangeNothing : Obligations.IgnoredArgumentBitsChangeNothing := by
  intro cfg w w' hop
  obtain ⟨h0, h1, -, h3, h4, h5, h6, h7⟩ := decodeCommand_of_op cfg w
  obtain ⟨h0', h1', -, h3', h4', h5', h6', h7'⟩ := decodeCommand_of_op cfg w'
  rw [← hop] at h0' h1' h3' h4' h5' h6' h7'
  refine ⟨fun h => ?_, fun ho hk => ?_, fun ho hk hbr => ?_⟩
  · have hcases : cmdOp w = 0 ∨ cmdOp w = 1 ∨ cmdOp w = 5 ∨ cmdOp w = 6 ∨ cmdOp w = 7 := by
      revert h
      generalize cmdOp w = o
      revert o
      decide
    obtain ho | ho | ho | ho | ho := hcases
    · rw [h0 ho, h0' ho]
    · rw [h1 ho, h1' ho]
    · rw [h5 ho, h5' ho]
    · rw [h6 ho, h6' ho]
    · rw [h7 ho, h7' ho]
  · rw [h3 ho, h3' ho, argCount_congr hk]
  · rw [h4 ho, h4' ho, argCount_congr hk, argBr8, argBr8, hbr]

/-! ### The formulas of the specification -/

/-- A command word as a number (`30_encoding.md` R69). -/
theorem toNat_commandWord (o : BitVec 3) (a : BitVec 32) :
    (commandWord o a).toNat = (o.toNat <<< 32) ||| a.toNat := BitVec.toNat_append o a

/-- The argument of COLOR as a number (`30_encoding.md` R73, R81). -/
theorem toNat_colorArg (v r g b : Byte) :
    (v ++ r ++ g ++ b).toNat = (v.toNat <<< 24) ||| (r.toNat <<< 16) ||| (g.toNat <<< 8) ||| b.toNat := by
  simp only [BitVec.toNat_append, Nat.shiftLeft_or_distrib, ← Nat.shiftLeft_add]

theorem cmdOp_toNat (w : CommandWord) : (cmdOp w).toNat = w.toNat / 2 ^ 32 := by
  have := w.isLt
  rw [cmdOp, BitVec.extractLsb'_toNat, Nat.shiftRight_eq_div_pow]
  omega

/-- A field of the argument is the same field of the word. -/
theorem extractLsb'_cmdArg (w : CommandWord) {k : Nat} (hk : k + 8 ≤ 32) :
    (cmdArg w).extractLsb' k 8 = w.extractLsb' k 8 := by
  apply BitVec.eq_of_getLsbD_eq
  intro i hi
  simp [cmdArg, hi, show k + i < 32 by omega]

theorem argCount_cmdArg (cfg : Config) (w : CommandWord) : argCount cfg (cmdArg w) = w.toNat % 2 ^ cfg.countW := by
  have hw : cfg.countW ≤ 32 := by have := cfg.countW_legal.2; omega
  rw [argCount, cmdArg, BitVec.extractLsb'_toNat, Nat.shiftRight_zero, Nat.mod_mod_of_dvd _ (Nat.pow_dvd_pow 2 hw)]

/-- Settles O11: a command word is its operation code shifted by 32 beside its argument, read and written. -/
theorem encodingIsTheFormulaOfTheSpec : Obligations.EncodingIsTheFormulaOfTheSpec := by
  refine ⟨⟨rfl, rfl, fun r g b v => ?_, fun n hn => ?_, fun n hn v => ?_⟩, fun cfg w => ?_⟩
  · show (commandWord 2 (v ++ r ++ g ++ b)).toNat = _
    rw [toNat_commandWord, toNat_colorArg]
    simp only [Nat.or_assoc]
    rfl
  · show (commandWord 3 (BitVec.ofNat 32 n)).toNat = _
    rw [toNat_commandWord, BitVec.toNat_ofNat, Nat.mod_eq_of_lt (by omega)]
    rfl
  · show (commandWord 4 (v ++ BitVec.ofNat 24 n)).toNat = _
    rw [toNat_commandWord, BitVec.toNat_append, BitVec.toNat_ofNat, Nat.mod_eq_of_lt (by omega), Nat.or_assoc]
    rfl
  · have hop (o : BitVec 3) (h : w.toNat / 2 ^ 32 = o.toNat) : cmdOp w = o :=
      BitVec.eq_of_toNat_eq ((cmdOp_toNat w).trans h)
    obtain ⟨h0, h1, h2, h3, h4, h5, h6, h7⟩ := decodeCommand_of_op cfg w
    rw [argCount_cmdArg] at h3 h4
    simp only [argRed, argGreen, argBlue, argBr8, extractLsb'_cmdArg w (show 16 + 8 ≤ 32 by decide),
      extractLsb'_cmdArg w (show 8 + 8 ≤ 32 by decide), extractLsb'_cmdArg w (show 0 + 8 ≤ 32 by decide),
      extractLsb'_cmdArg w (show 24 + 8 ≤ 32 by decide)] at h2 h4
    exact ⟨fun h => h0 (hop 0 h), fun h => h1 (hop 1 h), fun h => h2 (hop 2 h), fun h => h3 (hop 3 h),
      fun h => h4 (hop 4 h), fun h => h5 (hop 5 h), fun h => h6 (hop 6 h), fun h => h7 (hop 7 h)⟩

/-- Settles O12, each word by running the decoder on it. -/
theorem wordsOfTheSpecDecode : Obligations.WordsOfTheSpecDecode := by
  unfold Obligations.WordsOfTheSpecDecode
  decide

end Sys2Proof
end

section
/-! SUPPORT. The pixel packet's bytes and the two brightness reductions (30_encoding.md R62, R65, R66); that a word waits at a block that is not ready (R69). -/

namespace Sys2Proof.Machine

/-! ### The control byte and the brightness -/

/-- The control byte by OR, as R65 writes it. -/
theorem controlByte_eq_or (v : BitVec 5) : controlByte v = 0xE0#8 ||| v.setWidth 8 := by
  revert v
  decide

/-- The marker makes the control byte at least 0xE0 (`30_encoding.md` R65). -/
theorem controlByte_ge (v : BitVec 5) : 0xE0 ≤ (controlByte v).toNat := by
  revert v
  decide

/-- Settles O13, from the fields of the packet's word and from its bytes. -/
theorem pixelPacketLayout : Obligations.PixelPacketLayout := by
  intro v b g r
  obtain ⟨hm, hv, hb, hg, hr⟩ := pixelWord_fields v b g r
  exact ⟨hm, hv, hb, hg, hr, wireByte_pixelWord v b g r, controlByte_eq_or v, controlByte_ge v⟩

/-- A brightness of five bits is kept by both reductions (`30_encoding.md` R66). -/
theorem reduceBrightness_of_le {b : Byte} (h : b.toNat ≤ 31) (m : BrightReduce) :
    reduceBrightness m b = b.extractLsb' 0 5 := by
  cases m with
  | saturate => exact if_pos h
  | truncate => rfl

/-- Five bits hold a brightness up to 31. -/
theorem setWidth_extractLsb'_of_le {b : Byte} (h : b.toNat ≤ 31) : (b.extractLsb' 0 5).setWidth 8 = b := by
  apply BitVec.eq_of_toNat_eq
  simp only [BitVec.toNat_setWidth, BitVec.extractLsb'_toNat, Nat.shiftRight_zero]
  omega

/-- Settles O14: up to 31 both reductions keep the operand, which fits the control byte's five bits. -/
theorem brightnessReduction : Obligations.BrightnessReduction := by
  refine ⟨rfl, fun br8 => ⟨fun h m => ?_, fun h => if_neg (by omega), rfl⟩⟩
  rw [reduceBrightness_of_le h]
  refine ⟨?_, ?_⟩
  · rw [BitVec.extractLsb'_toNat, Nat.shiftRight_zero]
    omega
  · rw [controlByte_eq_or, setWidth_extractLsb'_of_le h]

/-! ### A word at a block that is not ready -/

/-- The converse of `step_cases`: the host's legal writes around one of the block's ways are a step. -/
theorem BlockGoes.step_eq {s b : State} (hw : s.input.writesLegal s.cfg = true)
    (h : BlockGoes s.input (s.beginMicroStep s.input) b) : step s = .next (b.endMicroStep s.input) := by
  rw [step, State.microStep, if_pos hw, h.blockStep_eq]
  rfl

/-- The same block with the words `q` waiting. -/
def State.withCmds (q : List CommandWord) (s : State) : State := { s with cmds := q }

theorem State.beginMicroStep_withCmds (q : List CommandWord) (inp : HostInput) (s : State) :
    (s.withCmds q).beginMicroStep inp = (s.beginMicroStep inp).withCmds q := by
  rw [State.beginMicroStep, State.beginMicroStep, apply_ite (State.withCmds q)]
  rfl

theorem State.endMicroStep_withCmds (q : List CommandWord) (inp : HostInput) (s : State) :
    (s.withCmds q).endMicroStep inp = (s.endMicroStep inp).withCmds q := by
  rw [State.endMicroStep, State.endMicroStep, apply_ite (State.withCmds q)]
  rfl

theorem State.finishItem_withCmds (q : List CommandWord) (s : State) :
    (s.withCmds q).finishItem = s.finishItem.withCmds q := by
  rw [State.finishItem, State.finishItem, apply_ite (State.withCmds q)]
  rfl

theorem State.fetchIfDue_withCmds (q : List CommandWord) (s : State) :
    (s.withCmds q).fetchIfDue = s.fetchIfDue.withCmds q := by
  rw [State.fetchIfDue, State.fetchIfDue, show (s.withCmds q).fetchDue = s.fetchDue from rfl]
  cases s.fetchDue <;> rfl

/-- A block that is not ready goes the same way whatever words wait. -/
theorem BlockGoes.withCmds {inp : HostInput} {u b : State} (h : BlockGoes inp u b) (hn : u.cmdReady = false)
    (q : List CommandWord) : BlockGoes inp (u.withCmds q) (b.withCmds q) := by
  cases h with
  | reset hr => exact .reset hr
  | faulted hr hf => exact .faulted hr hf
  | fails hr hf hb hp hc => exact .fails hr hf hb hp hc
  | configures hr hf hb hp hd hc =>
    rw [← State.finishItem_withCmds]
    exact .configures hr hf hb hp hd hc
  | setsData f hr hf hb hp hs =>
    have he := State.fetchIfDue_withCmds q u
    have hgo := BlockGoes.setsData (inp := inp) (u := u.withCmds q) f hr hf hb (by rw [he]; exact hp) hs
    rwa [he] at hgo
  | raisesClock f hr hf hb hp hs => exact .raisesClock f hr hf hb hp hs
  | lowersClock f hr hf hb hp hs h7 => exact .lowersClock f hr hf hb hp hs h7
  | endsByte f hr hf hb hp hs h7 =>
    rw [← State.finishItem_withCmds]
    exact .endsByte f hr hf hb hp hs h7
  | accepts _ _ _ hf hb | ignores _ _ _ hf hb | waits _ hf hb =>
    cases (State.cmdReady_iff.mpr ⟨hb, hf⟩).symm.trans hn

/-- A block that is not ready takes no word. -/
theorem BlockGoes.cmds_of_not_ready {inp : HostInput} {u b : State} (h : BlockGoes inp u b)
    (hn : u.cmdReady = false) : b.cmds = u.cmds := by
  cases h with
  | reset | faulted | fails | configures | setsData | raisesClock | lowersClock | endsByte => simp
  | accepts _ _ _ hf hb | ignores _ _ _ hf hb | waits _ hf hb =>
    cases (State.cmdReady_iff.mpr ⟨hb, hf⟩).symm.trans hn

/-- A ready block takes the word on its port. -/
theorem BlockGoes.cmds_of_ready {inp : HostInput} {u b : State} (h : BlockGoes inp u b) (hready : u.cmdReady = true)
    (hr : inp.rst = false) (hwh : inp.withhold = false) : b.cmds = u.cmds.tail := by
  obtain ⟨hb, hf⟩ := State.cmdReady_iff.mp hready
  cases h with
  | reset hr' => rw [hr] at hr'; cases hr'
  | faulted _ hf' => rw [hf] at hf'; cases hf'
  | fails _ _ hb' | configures _ _ hb' | setsData _ _ _ hb' | raisesClock _ _ _ hb' | lowersClock _ _ _ hb'
  | endsByte _ _ _ hb' => rw [hb] at hb'; cases hb'
  | accepts | ignores => simp
  | waits _ _ _ hq =>
    have hnil : u.cmds = [] := by simpa [State.presented, hwh] using hq
    rw [hnil]
    rfl

/-- Settles O19: of the block's ways, only those of a ready block read the queue. -/
theorem aWordPresentedToABlockThatIsNotReadyWaits : Obligations.AWordPresentedToABlockThatIsNotReadyWaits := by
  intro s
  have hbegin : (s.beginMicroStep s.input).cmdReady = s.cmdReady := by simp [State.cmdReady]
  refine ⟨fun hready hr hwh t h => ?_, fun hn => ⟨fun i hi => exec_of_not_ready hi hn, fun t q h => ?_⟩⟩
  · obtain ⟨-, b, hgo, rfl⟩ := step_cases h
    simpa using hgo.cmds_of_ready (hbegin.trans hready) hr hwh
  · obtain ⟨hw, b, hgo, rfl⟩ := step_cases h
    refine ⟨by simpa using hgo.cmds_of_not_ready (hbegin.trans hn), ?_⟩
    have hgo' := hgo.withCmds (hbegin.trans hn) q
    rw [← State.beginMicroStep_withCmds] at hgo'
    have hstep := BlockGoes.step_eq (s := s.withCmds q) hw hgo'
    rwa [show (s.withCmds q).input = s.input from rfl, State.endMicroStep_withCmds] at hstep

end Sys2Proof.Machine
end

section
/-! SUPPORT. A wire format in flight, from the first pin event of its first byte to the last of its last (30_encoding.md R61 to R63; 45_bit_transfer.md R144, R152, R153). -/

namespace Sys2Proof.Machine

/-! ### The rest of a byte whose first pin event has happened -/

/-- The events of the bits `k - 1` to 0 of a byte. -/
def bitsBelow (v : Byte) : Nat → List PinEvent
  | 0 => []
  | k + 1 => xferBit (v.getLsbD k) ++ bitsBelow v k

theorem xferByte_eq_bitsBelow (v : Byte) : xferByte v = bitsBelow v 8 := rfl

/-- From bit `7 - k` on, the last `k + 1` bits of a byte go out, and its item is finished. -/
theorem Sending.run_bitsBelow {f : Instr} {s : State} {v : Byte} (h : Sending f s)
    (hv : frameByte f s.byteIndex = v) (k : Nat) (b : BitVec 3) (hb : b.toNat + k = 7) (hk : k < 7)
    (es : List PinEvent) (n : Nat) :
    run (3 * (k + 1)) (((s.performAll es).setPos b 0).dropInputs n) = .next
      (((s.performAll (es ++ bitsBelow v (k + 1))).setPos 0 0).dropInputs (n + 3 * (k + 1))).finishItem := by
  induction k generalizing b es n with
  | zero =>
    have h7 : b = 7 := by bv_omega
    have hlast := h.run_next_bit hv es n b (by rw [h7]; decide)
    rw [if_pos h7, h7] at hlast
    simpa [bitsBelow, h7] using hlast
  | succ k ih =>
    have hbit := h.run_next_bit hv es n b (by bv_omega)
    rw [if_neg (by bv_omega), show 7 - b.toNat = k + 1 by omega] at hbit
    have hrest := ih (b + 1) (by bv_omega) (by omega) (es ++ xferBit (v.getLsbD (k + 1))) (n + 3)
    have hall := run_trans hbit hrest
    rw [show 3 + 3 * (k + 1) = 3 * (k + 1 + 1) by omega, List.append_assoc,
      show n + 3 + 3 * (k + 1) = n + 3 * (k + 1 + 1) by omega] at hall
    exact hall

/-- A byte from exec of its format to its last step: exec performs the first pin event and fetches no pixel. -/
theorem Sending.exec_run_byte {f : Instr} {s : State} (h : Sending f s) (hbit : s.bit = 0) (hsub : s.sub = 0) :
    ∃ t, exec f s = .next t
      ∧ run 23 t = .next ((s.performAll (xferByte (frameByte f s.byteIndex))).dropInputs 23).finishItem := by
  generalize hv : frameByte f s.byteIndex = v
  refine ⟨(((s.performAll [.setD (v.getLsbD 7)]).setPos 0 1).dropInputs 0), ?_, ?_⟩
  · rw [exec_of_frame (State.pending_frame_isCommand h.pending), byteStep_sub0 _ h.busy h.noFault hsub, hv, hbit]
    rfl
  · have hpulse := (h.carry [.setD (v.getLsbD 7)] 0 1 0).run_pulse rfl
    have hrest := h.run_bitsBelow hv 6 1 rfl (by decide) (xferBit (v.getLsbD 7)) 2
    rw [if_neg (by simp)] at hpulse
    have hpos : (s.performAll (xferByte v)).setPos 0 0 = s.performAll (xferByte v) := by
      rw [State.performAll_eq, State.setPos, hbit.symm, hsub.symm]
    rw [← hpos]
    exact run_trans hpulse hrest

/-! ### Several bytes -/

/-- The state `b` of a command after the events `es`, with item `j` to come, or completed where `j` is past the last. -/
def State.arrive (b : State) (es : List PinEvent) (j n : Nat) : State :=
  if j = b.len then (b.along es 0 n).completed else b.along es j n

/-- Finishing item `j` arrives at item `j + 1`. -/
theorem AtItem.finish_arrive {b : State} (h : AtItem b) (es ev : List PinEvent) (j n k : Nat) :
    (((b.along es j n).performAll ev).dropInputs k).finishItem = b.arrive (es ++ ev) (j + 1) (n + k) := by
  rw [State.arrive]
  split
  · next hl => exact State.complete_along hl h.bit h.sub
  · next hl => exact State.finish_along hl

/-- Where an item stands the command is not complete. -/
theorem State.arrive_of_item {b : State} {j : Nat} {it : Item} (hit : (b.setIdx j).item = some it)
    (es : List PinEvent) (n : Nat) : b.arrive es j n = b.along es j n := by
  refine if_neg fun hj => ?_
  have hp : (b.setIdx j).pending = .nothing := State.pending_nothing_iff.mpr (Nat.le_of_eq hj.symm)
  rw [State.item, hp] at hit
  cases hit

/-- Several byte items in which no pixel is fetched go out. -/
theorem AtItem.run_bytes {b : State} (h : AtItem b) (bs : List Byte) (es : List PinEvent) (j n : Nat)
    (hits : ∀ k v, bs[k]? = some v →
      (b.setIdx (j + k)).item = some (.byte v) ∧ (b.setIdx (j + k)).fetchDue = none) :
    run (24 * bs.length) (b.arrive es j n) =
      .next (b.arrive (es ++ bs.flatMap xferByte) (j + bs.length) (n + 24 * bs.length)) := by
  induction bs generalizing es j n with
  | nil => simp [run]
  | cons v bs ih =>
    obtain ⟨hit, hd⟩ := hits 0 v rfl
    rw [Nat.add_zero] at hit hd
    have he := State.fetchIfDue_along_none (es := es) (n := n) hd
    have hbyte := (h.along es j n).run_item (it := .byte v) (by rw [he]; exact hit) (fun hh => by cases hh)
    rw [he, h.finish_arrive, ← State.arrive_of_item hit] at hbyte
    have hrest := ih (es ++ xferByte v) (j + 1) (n + 24) fun k v' hk => by
      rw [show j + 1 + k = j + (k + 1) by omega]
      exact hits (k + 1) v' hk
    have hall := run_trans hbyte hrest
    rw [List.append_assoc, Nat.add_assoc, Nat.add_assoc, Nat.add_comm 1] at hall
    rw [List.length_cons, Nat.mul_add_one, Nat.add_comm _ 24]
    exact hall

/-- A wire format in flight goes out, byte by byte, from exec of it to its last step. -/
theorem AtItem.exec_run_frame {s : State} {f : Instr} (h : AtItem s) (hp : s.pending = .frame f) (bs : List Byte)
    (hits : ∀ k v, bs[k]? = some v →
      (s.setIdx (s.idx + 1 + k)).item = some (.byte v) ∧ (s.setIdx (s.idx + 1 + k)).fetchDue = none) :
    ∃ t, exec f s = .next t ∧ run (23 + 24 * bs.length) t = .next
      (s.arrive ((frameByte f s.byteIndex :: bs).flatMap xferByte) (s.idx + 1 + bs.length) (23 + 24 * bs.length)) := by
  have hs : Sending f s := { calm := h.calm, busy := h.busy, noFault := h.noFault, pending := hp }
  obtain ⟨t, hexec, hbyte⟩ := hs.exec_run_byte h.bit h.sub
  have hstart : s = s.along [] s.idx 0 := by simp [State.along]
  refine ⟨t, hexec, ?_⟩
  have hfin := h.finish_arrive [] (xferByte (frameByte f s.byteIndex)) s.idx 0 23
  rw [← hstart] at hfin
  rw [hfin] at hbyte
  simpa using run_trans hbyte (h.run_bytes bs _ _ _ hits)

/-- The state after a run of bytes, item `j` to come. -/
theorem AtItem.arrive_bytes {s : State} (h : AtItem s) (vs : List Byte) (v : Byte) (j n : Nat) :
    s.arrive ((vs ++ [v]).flatMap xferByte) j n = { s with
      pins := { s.pins with datLvl := v.getLsbD 0, clkLvl := false }, tx := true,
      evt := s.evt ++ (vs ++ [v]).flatMap xferByte,
      wire := s.wire ++ (if s.configured then (vs ++ [v]).flatMap byteBits else []),
      idx := if j = s.len then 0 else j, busy := decide (j ≠ s.len), script := s.script.drop n } := by
  rw [State.arrive]
  split
  · next hl =>
    rw [State.along_bytes]
    simp [State.completed, hl, h.bit, h.sub]
  · next hl =>
    rw [State.along_bytes]
    simp [hl, h.busy]

/-- The bits of a wire frame are those of its four bytes (`00_scope.md` R8). -/
theorem wireBits_eq (w : WireWord) :
    wireBits w = ((List.range 4).map (wireByte w)).flatMap byteBits := by
  simp [wireBits, wireByte, byteBits, List.range_succ]

theorem State.item_of_frame {s : State} {f : Instr} (h : s.pending = .frame f) :
    s.item = some (.byte (frameByte f s.byteIndex)) := by
  rw [State.item, h]

theorem frameByte_startFrame (k : Nat) : frameByte .wireStartFrame k = 0 := wireByte_startFrame k

/-! ### The end-frame byte -/

/-- Settles O44: padding is never the last item, so the position moves on. -/
theorem theEndFrameByteGoesOut : Obligations.TheEndFrameByteGoesOut := by
  intro s hb hf hu hp hbit hsub
  have hs : AtItem s := { calm := hu, busy := hb, noFault := hf, bit := hbit, sub := hsub }
  obtain ⟨hpad⟩ : AtPadding s := by
    obtain ⟨h, -⟩ | ⟨h, -⟩ | ⟨-, h⟩ := State.pending_frame_cases hp
    · cases h
    · cases h
    · exact h
  have hlen : s.idx + 1 ≠ s.len := by omega
  obtain ⟨t, hexec, hrun⟩ := hs.exec_run_frame hp [] (fun k v hk => by simp at hk)
  refine ⟨t, hexec, hrun.trans ?_⟩
  rw [frameByte, endPadByte]
  refine congrArg _ ((hs.arrive_bytes [] 0 (s.idx + 1) 23).trans ?_)
  rw [if_neg hlen, decide_eq_true hlen, hb]
  rfl

/-! ### The start frame -/

/-- The bytes of the start frame after the first, in START and in WRITE. -/
theorem AtStartFrame.item_next {s : State} (h : AtStartFrame s) {j : Nat} (hl : 1 ≤ j) (hh : j < 5) :
    (s.setIdx j).item = some (.byte 0) ∧ (s.setIdx j).fetchDue = none := by
  refine ⟨?_, State.fetchDue_none_of_mod (.inl hh)⟩
  have h0 : (s.setIdx j).idx ≠ 0 := Nat.pos_iff_ne_zero.mp hl
  have h5 : (s.setIdx j).idx < 5 := hh
  have hp : (s.setIdx j).pending = .frame .wireStartFrame := by
    obtain ⟨ho, -⟩ | ⟨ho, -⟩ := h.op
    · rw [State.pending_start (s := s.setIdx j) ho, if_neg h0, if_pos h5]
    · rw [State.pending_write (s := s.setIdx j) ho, if_neg h0, if_pos h5]
  rw [State.item_of_frame hp, frameByte_startFrame]

/-- Settles O42: byte 0 of the start frame stands at item 1 of START or WRITE, its other three bytes at items 2 to 4. -/
theorem theStartFrameGoesOut : Obligations.TheStartFrameGoesOut := by
  intro s hb hf hu hp hx hbit hsub
  have hs : AtItem s := { calm := hu, busy := hb, noFault := hf, bit := hbit, sub := hsub }
  have hat : AtStartFrame s := by
    obtain ⟨-, h⟩ | ⟨h, -⟩ | ⟨h, -⟩ := State.pending_frame_cases hp
    · exact h
    · cases h
    · cases h
  have hidx : s.idx = 1 := by have := hat.byteIndex; have := hat.low; omega
  obtain ⟨t, hexec, hrun⟩ := hs.exec_run_frame hp [0, 0, 0] fun k v hk => by
    have hk3 : k < 3 := by simpa using lt_of_getElem?_eq_some hk
    have hv : v = 0 := by interval_cases k <;> simpa using hk.symm
    rw [hv]
    exact hat.item_next (by omega) (by omega)
  refine ⟨t, hexec, hrun.trans ?_⟩
  rw [frameByte_startFrame]
  refine congrArg _ ((hs.arrive_bytes [0, 0, 0] 0 (s.idx + 4) 95).trans ?_)
  rw [wireBits_eq, ← flatMap_xferByte, show (List.range 4).map (wireByte 0x00000000#32) = [0, 0, 0, 0] from rfl]
  rfl

/-! ### The pixel packet -/

/-- The item at place `k` of a COLOR. -/
theorem State.item_color_pixel {s : State} (hop : s.op = 2) {k : Nat} (hk : k < 4) :
    (s.setIdx k).item = (packetItems s.bright5 s.pixel)[k]? := by
  have hp : (s.setIdx k).pending = .frame (.wirePixel s.bright5 s.blue s.green s.red) :=
    (State.pending_color (s := s.setIdx k) hop).trans (if_pos hk)
  have hx : (s.setIdx k).byteIndex = k := State.byteIndex_color (s := s.setIdx k) hop
  obtain ⟨f0, f1, f2, f3⟩ := frameByte_pixel s.bright5 s.blue s.green s.red
  rw [State.item_of_frame hp, hx]
  interval_cases k <;> simp [packetItems, State.pixel, f0, f1, f2, f3]

/-- The bytes of a pixel packet after the control byte, in COLOR and in WRITE. -/
theorem AtPixel.item_next {s : State} (h : AtPixel s) (hx : s.byteIndex = 0) {k : Nat} {v : Byte}
    (hk : [s.blue, s.green, s.red][k]? = some v) :
    (s.setIdx (s.idx + 1 + k)).item = some (.byte v) ∧ (s.setIdx (s.idx + 1 + k)).fetchDue = none := by
  have hk3 : k < 3 := lt_of_getElem?_eq_some hk
  have hitem : (packetItems s.bright5 s.pixel)[k + 1]? = some (.byte v) := by
    rw [show packetItems s.bright5 s.pixel
        = .byte (controlByte s.bright5) :: [s.blue, s.green, s.red].map Item.byte from rfl,
      List.getElem?_cons_succ, List.getElem?_map, hk]
    rfl
  rw [← hitem, show s.idx + 1 + k = s.idx + (k + 1) by omega]
  obtain ⟨hop, -, -, hi⟩ | ⟨hop, -, hlo, hhi, hi⟩ := h.place
  · rw [show s.idx = 0 by omega, Nat.zero_add]
    exact ⟨State.item_color_pixel hop (by omega), State.fetchDue_none_of_mod (.inl (by omega))⟩
  · obtain ⟨i, hidx⟩ : ∃ i, s.idx = 5 + 4 * i := ⟨(s.idx - 5) / 4, by omega⟩
    rw [hidx]
    exact ⟨State.item_write_pixel hop (by omega) (by omega), State.fetchDue_none_of_mod (.inr (.inr (by omega)))⟩

/-- Settles O43: the packet's other three bytes stand at the next three items, at none of which a pixel is fetched. -/
theorem thePixelPacketGoesOut : Obligations.ThePixelPacketGoesOut := by
  intro s v b g r hb hf hu hp hx hbit hsub
  have hs : AtItem s := { calm := hu, busy := hb, noFault := hf, bit := hbit, sub := hsub }
  obtain ⟨h, -⟩ | ⟨h, hat⟩ | ⟨h, -⟩ := State.pending_frame_cases hp
  · cases h
  · obtain ⟨rfl, rfl, rfl, rfl⟩ := Instr.wirePixel.inj h
    obtain ⟨t, hexec, hrun⟩ := hs.exec_run_frame hp [s.blue, s.green, s.red] fun k v hk => hat.item_next hx hk
    refine ⟨t, hexec, hrun.trans ?_⟩
    have hbits : wireBits (0b111#3 ++ s.bright5 ++ s.blue ++ s.green ++ s.red)
        = [controlByte s.bright5, s.blue, s.green, s.red].flatMap byteBits := by
      rw [wireBits_eq]
      exact congrArg _ (wireByte_pixelWord s.bright5 s.blue s.green s.red)
    rw [hx, (frameByte_pixel _ _ _ _).1, hbits, ← flatMap_xferByte]
    exact congrArg _ (hs.arrive_bytes [controlByte s.bright5, s.blue, s.green] s.red (s.idx + 4) 95)
  · cases h

end Sys2Proof.Machine
end

section
/-! SUPPORT. The byte stream of a WRITE, its completion, and the two receivers that read the stream back (30_encoding.md R64, R68; 44_write.md R130 to R135). -/

namespace Sys2Proof.Machine

/-! ### The bytes of a WRITE -/

/-- The packets of a WRITE, one brightness for all its pixels. -/
def State.writePackets (s : State) (n : Nat) (b5 : BitVec 5) : List Packet :=
  (List.range n).map (fun i => { pixel := s.pixelAt i, bright5 := b5 })

theorem State.transmissionBytes_pixels (s : State) (n : Nat) (b5 : BitVec 5) :
    transmissionBytes b5 ((List.range n).map s.pixelAt) = streamBytes (s.writePackets n b5) := by
  rw [transmissionBytes, List.map_map]
  rfl

@[simp] theorem State.writePackets_length (s : State) (n : Nat) (b5 : BitVec 5) : (s.writePackets n b5).length = n := by
  simp [State.writePackets]

theorem Packet.bytes_length (p : Packet) : p.bytes.length = 4 := rfl

theorem flatMap_bytes_length (ps : List Packet) : (ps.flatMap Packet.bytes).length = 4 * ps.length := by
  simp [List.length_flatMap, Packet.bytes_length, Nat.mul_comm]

/-- The length of a complete transmission (`44_write.md` R135). -/
theorem streamBytes_length (ps : List Packet) :
    (streamBytes ps).length = 4 + 4 * ps.length + padBytes ps.length := by
  rw [streamBytes, List.length_append, List.length_append, flatMap_bytes_length, List.length_replicate,
    List.length_replicate]

/-- The items of a WRITE after its first `CfgItem` are its bytes and a `CfgItem`. -/
theorem State.writeTail_eq (s : State) (n : Nat) (v : Byte) :
    s.writeTail n v =
      (streamBytes (s.writePackets n (reduceBrightness s.cfg.brightReduce v))).map Item.byte ++ [.cfgItem] := by
  have hpackets (b5 : BitVec 5) : (List.range n).flatMap (fun i => packetItems b5 (s.pixelAt i))
      = ((s.writePackets n b5).flatMap Packet.bytes).map Item.byte := by
    rw [State.writePackets, List.flatMap_map, List.map_flatMap]
    rfl
  rw [State.writeTail, hpackets, streamBytes, State.writePackets_length, endItems]
  simp

theorem itemEvents_bytes (bs : List Byte) : itemEvents (bs.map Item.byte) = bs.flatMap xferByte := by
  rw [itemEvents, List.flatMap_map]
  rfl

theorem itemBits_bytes (bs : List Byte) : itemBits (bs.map Item.byte) = bs.flatMap byteBits := by
  rw [itemBits, List.flatMap_map]
  rfl

theorem State.itemEvents_write (s : State) (n : Nat) (v : Byte) :
    itemEvents (s.expand (.write n v)) = .cfg ::
      (streamBytes (s.writePackets n (reduceBrightness s.cfg.brightReduce v))).flatMap xferByte ++ [.cfg] := by
  rw [State.expand_write, State.writeTail_eq, itemEvents_cons, itemEvents_append, itemEvents_bytes]
  rfl

theorem State.itemBits_write (s : State) (n : Nat) (v : Byte) :
    itemBits (s.writeTail n v) =
      (streamBytes (s.writePackets n (reduceBrightness s.cfg.brightReduce v))).flatMap byteBits := by
  rw [State.writeTail_eq, itemBits_append, itemBits_bytes]
  exact List.append_nil _

/-! ### WRITE completes -/

/-- A list of events that ends in `Cfg` leaves idle lines and `TX` = 0. -/
theorem Pins.afterAll_cfg_last (es : List PinEvent) (p : Pins) : p.afterAll (es ++ [.cfg]) = .idle := by
  rw [Pins.afterAll_append]
  rfl

theorem txAfterAll_cfg_last (es : List PinEvent) (tx : Bool) : txAfterAll (es ++ [.cfg]) tx = false := by
  rw [txAfterAll_append]
  rfl

/-- The whole state at the completion of a WRITE, in terms of its events. -/
theorem State.completed_write (s : State) (n : Nat) (v : Byte) (es : List PinEvent) (k : Nat) :
    (((s.loadWrite n v).begun.fetchPixels n).along es 0 k).completed = { s with
      op := 4, count := n, npad := padBytes n, bright5 := reduceBrightness s.cfg.brightReduce v,
      red := if n = 0 then s.red else (s.pixelAt (n - 1)).red,
      green := if n = 0 then s.green else (s.pixelAt (n - 1)).green,
      blue := if n = 0 then s.blue else (s.pixelAt (n - 1)).blue, draws := s.draws + n,
      idx := 0, bit := 0, sub := 0, busy := false, pins := s.pins.afterAll es, tx := txAfterAll es s.tx,
      evt := s.evt ++ es, wire := s.wire ++ sampledFrom s.pins es, script := s.script.drop k } := by
  rw [State.fetchPixels_eq]
  rfl

/-- Settles O41: the walk of `State.run_write` performs a `Cfg`, the bytes of the stream and a `Cfg`. -/
theorem writeSendsTheWholeFrameAndCompletes : Obligations.WriteSendsTheWholeFrameAndCompletes := by
  intro s n v hr hu
  obtain ⟨hb, hf⟩ := State.cmdReady_iff.mp hr
  have hrun := State.run_write n v hr hu
  have hwire : sampledFrom s.pins (itemEvents (s.expand (.write n v)))
      = (streamBytes (s.writePackets n (reduceBrightness s.cfg.brightReduce v))).flatMap byteBits := by
    rw [s.expand_write, sampledFrom_cfgItem_cons, s.itemBits_write]
  rw [State.completed_write, ← hb, hwire, s.itemEvents_write, Pins.afterAll_cfg_last, txAfterAll_cfg_last] at hrun
  refine ⟨_, _, _, exec_of_ready (i := .write n v) rfl hr, hrun, (s.transmissionBytes_pixels n _).symm, ?_, rfl, ?_⟩
  · rw [streamBytes_length, State.writePackets_length]
    rfl
  · show BitVec.ofBool true ++ BitVec.ofBool s.fault ++ BitVec.ofBool false ++ BitVec.ofBool s.busy = 0b1000#4
    rw [hf, hb]
    rfl

/-! ### The receivers -/

theorem byteOfBits_byteBits (v : Byte) : byteOfBits (v.getLsbD 7) (v.getLsbD 6) (v.getLsbD 5) (v.getLsbD 4)
    (v.getLsbD 3) (v.getLsbD 2) (v.getLsbD 1) (v.getLsbD 0) = v := by
  revert v
  decide

/-- Grouping the bits of bytes by eight gives the bytes back (`10_state.md` R31). -/
theorem bytesOfBits_flatMap (bs : List Byte) : bytesOfBits (bs.flatMap byteBits) = bs := by
  induction bs with
  | nil => rfl
  | cons v bs ih =>
    show byteOfBits _ _ _ _ _ _ _ _ :: bytesOfBits (bs.flatMap byteBits) = _
    rw [ih, byteOfBits_byteBits]

/-- A packet is read back from its bytes: the control byte's low five bits are the brightness (`30_encoding.md` R68). -/
theorem receivePacket_bytes (p : Packet) :
    receivePacket (controlByte p.bright5) p.pixel.blue p.pixel.green p.pixel.red = p := by
  have h : ∀ v : BitVec 5, (controlByte v).extractLsb' 0 5 = v := by decide
  rw [receivePacket, h]

theorem receiveCount_packets (ps : List Packet) (rest : List Byte) :
    receiveCount ps.length (ps.flatMap Packet.bytes ++ rest) = some ps := by
  induction ps with
  | nil => rfl
  | cons p ps ih =>
    show (receiveCount ps.length (ps.flatMap Packet.bytes ++ rest)).map _ = _
    rw [ih, Option.map_some, receivePacket_bytes]

theorem receiveWhile_zeros (k : Nat) : receiveWhile (List.replicate k 0) = [] := by
  match k with
  | 0 | 1 | 2 | 3 => rfl
  | k + 4 => rfl

theorem receiveWhile_packets (ps : List Packet) (k : Nat) :
    receiveWhile (ps.flatMap Packet.bytes ++ List.replicate k 0) = ps := by
  induction ps with
  | nil => exact receiveWhile_zeros k
  | cons p ps ih =>
    have h : ∀ v : BitVec 5, 0xE0#8 ≤ controlByte v := by decide
    show (if _ then receivePacket _ _ _ _ :: receiveWhile (ps.flatMap Packet.bytes ++ List.replicate k 0) else []) = _
    rw [if_pos (h p.bright5), ih, receivePacket_bytes]

/-- The receiver that knows the number of pixels recovers the packets of a stream (`30_encoding.md` R68). -/
theorem decodeStreamOf_streamBytes (ps : List Packet) : decodeStreamOf ps.length (streamBytes ps) = some ps := by
  rw [streamBytes, List.append_assoc]
  exact receiveCount_packets ps _

/-- The receiver that looks for the marker recovers the packets of a stream (`30_encoding.md` R68). -/
theorem decodeStream_streamBytes (ps : List Packet) : decodeStream (streamBytes ps) = ps := by
  rw [streamBytes, List.append_assoc]
  exact receiveWhile_packets ps _

/-- What is not a packet in a stream is zero (`30_encoding.md` R64). -/
theorem streamBytes_ends (ps : List Packet) : (streamBytes ps).take 4 = List.replicate 4 0
    ∧ (streamBytes ps).drop (4 + 4 * ps.length) = List.replicate (padBytes ps.length) 0 := by
  refine ⟨?_, ?_⟩
  · rw [streamBytes, List.append_assoc]
    rfl
  · exact List.drop_left' (by rw [List.length_append, flatMap_bytes_length, List.length_replicate])

/-- Settles O52: the bits of a WRITE are those of its byte stream, which both receivers read back. -/
theorem theReceiverRecoversTheFrame : Obligations.TheReceiverRecoversTheFrame := by
  intro s n v hr hu hv
  have hsent := s.sent_commandMeaning (i := .write n v) rfl
  have hbits := bytesOfBits_flatMap (streamBytes (s.writePackets n (v.extractLsb' 0 5)))
  have hof := decodeStreamOf_streamBytes (s.writePackets n (v.extractLsb' 0 5))
  obtain ⟨htake, hdrop⟩ := streamBytes_ends (s.writePackets n (v.extractLsb' 0 5))
  rw [State.writePackets_length] at hof hdrop
  refine ⟨_, _, (streamBytes (s.writePackets n (v.extractLsb' 0 5))).flatMap byteBits,
    exec_of_ready (i := .write n v) rfl hr, State.run_operation rfl hr hu, ?_, ?_⟩
  · rw [State.dropInputs_wire, hsent.wire, s.expand_write, sampledFrom_cfgItem_cons, s.itemBits_write,
      reduceBrightness_of_le hv]
  · rw [hbits]
    exact ⟨hof, decodeStream_streamBytes _, htake, hdrop⟩

end Sys2Proof.Machine
end

section
/-! SUPPORT. INIT from its acceptance to its completion, and the source's Idle state it leaves (40_initialize.md R90, R91). -/

namespace Sys2Proof.Machine

/-- `STATUS` of a ready block in the source's Idle state: `CONFIGURED` alone (`10_state.md` R19). -/
theorem State.status_of_ready_idle {s : State} (hr : s.cmdReady = true) (hp : s.pins = .idle) (ht : s.tx = false) :
    s.status = 0b1000#4 := by
  obtain ⟨hb, hf⟩ := State.cmdReady_iff.mp hr
  rw [State.status, State.configured, hp, hf, ht, hb]
  rfl

/-- The whole state at the completion of an INIT: its one `Cfg` leaves the lines idle and puts no bit on `WIRE`. -/
theorem State.completed_init {s : State} (hb : s.busy = false) :
    (s.loadInit.begun.along [.cfg] 0 1).completed = { s with
      op := 0, idx := 0, bit := 0, sub := 0, pins := .idle, tx := false, evt := s.evt ++ [.cfg],
      script := s.script.drop 1 } := by
  have hpins : s.pins.afterAll [.cfg] = .idle := rfl
  have htx : txAfterAll [.cfg] s.tx = false := rfl
  have hwire : sampledFrom s.pins [.cfg] = [] := rfl
  simp only [State.completed, State.along, State.begun, State.loadInit, hb, hpins, htx, hwire, List.append_nil]

/-- Settles O37: the walk of `State.run_init` performs one `Cfg`, after which the block is ready again. -/
theorem initConfiguresTheLinesAndCompletes : Obligations.InitConfiguresTheLinesAndCompletes := by
  intro s hr hu
  obtain ⟨hb, -⟩ := State.cmdReady_iff.mp hr
  have hrun := State.run_init hr hu
  rw [State.completed_init hb] at hrun
  exact ⟨_, _, exec_of_ready (i := .init) rfl hr, hrun, rfl, rfl, rfl, State.status_of_ready_idle hr rfl rfl⟩

end Sys2Proof.Machine
end

section
/-! SUPPORT. START from its acceptance to its completion (41_start_frame.md R100, R101, R103). -/

namespace Sys2Proof.Machine

/-! ### The items of START -/

/-- START sends the 32 zero bits of the start frame (`30_encoding.md` R61). -/
theorem itemBits_startItems : itemBits startItems = List.replicate 32 false := rfl

/-- START performs a `Cfg` and the transfer of 32 zero bits (`41_start_frame.md` R101). -/
theorem itemEvents_startItems :
    itemEvents startItems = .cfg :: (List.replicate 32 false).flatMap xferBit := by
  rw [← itemBits_startItems]
  rfl

/-- START's `Cfg` makes both lines outputs and low, and its zero bits leave them so. -/
theorem Pins.afterAll_startItems (p : Pins) : p.afterAll (itemEvents startItems) = .idle := by
  rw [itemEvents_startItems, Pins.afterAll_cons, Pins.afterAll_bits]
  rfl

/-- START's last `SetD` comes after its `Cfg`, so `TX` = 1 (`10_state.md` R16). -/
theorem txAfterAll_startItems (tx : Bool) : txAfterAll (itemEvents startItems) tx = true := by
  rw [itemEvents_startItems, txAfterAll_cons, txAfterAll_bits]
  rfl

/-- START's own `Cfg` comes first, so all its bits reach `WIRE` whatever the lines were before (`10_state.md` R31). -/
theorem sampledFrom_startItems (p : Pins) : sampledFrom p (itemEvents startItems) = List.replicate 32 false :=
  (sampledFrom_cfgItem_cons p _).trans itemBits_startItems

/-! ### START completes -/

/-- The whole state at the completion of a START. -/
theorem State.completed_start {s : State} (hb : s.busy = false) :
    (s.loadStart.begun.along (itemEvents startItems) 0 97).completed = { s with
      op := 1, idx := 0, bit := 0, sub := 0, pins := .idle, tx := true,
      evt := s.evt ++ .cfg :: (List.replicate 32 (xferBit false)).flatten,
      wire := s.wire ++ List.replicate 32 false, script := s.script.drop 97 } := by
  rw [← List.flatMap_replicate, ← itemEvents_startItems]
  simp only [State.completed, State.along, State.begun, State.loadStart, hb, Pins.afterAll_startItems,
    txAfterAll_startItems, sampledFrom_startItems]

/-- `STATUS` of a ready block with configured lines: only `TX` is still open (`10_state.md` R19). -/
theorem State.status_of_ready_configured {s : State} {b : Bool} (hr : s.cmdReady = true) (hc : s.configured = true)
    (ht : s.tx = b) : s.status = 0b10#2 ++ BitVec.ofBool b ++ 0b0#1 := by
  obtain ⟨hb, hf⟩ := State.cmdReady_iff.mp hr
  rw [State.status, hc, hf, ht, hb]
  cases b <;> rfl

/-- Settles O38: the walk of `State.run_start` performs one `Cfg` and 32 zero bits, after which the block is ready
again. -/
theorem startSendsTheStartFrameAndCompletes : Obligations.StartSendsTheStartFrameAndCompletes := by
  intro s hr hu
  obtain ⟨hb, -⟩ := State.cmdReady_iff.mp hr
  have hrun := State.run_start hr hu
  rw [State.completed_start hb] at hrun
  refine ⟨_, _, exec_of_ready (i := .start) rfl hr, hrun, rfl, ?_⟩
  rw [State.status_of_ready_configured (by exact hr) rfl (b := true) rfl]
  rfl

end Sys2Proof.Machine
end

section
/-! SUPPORT. COLOR from its acceptance to its completion (42_send_color.md R110, R111, R114). -/

namespace Sys2Proof.Machine

/-- COLOR performs the transfer of control byte, blue, green and red, in this order (`42_send_color.md` R111). -/
theorem itemEvents_packetItems (w : BitVec 5) (p : Pixel) :
    itemEvents (packetItems w p) = [controlByte w, p.blue, p.green, p.red].flatMap xferByte :=
  itemEvents_bytes [controlByte w, p.blue, p.green, p.red]

/-- The whole state at the completion of a COLOR: red is the last byte sent, and the latches it met decide only which
bits reach `WIRE` (`42_send_color.md` R114). -/
theorem State.completed_color {s : State} (r g b v : Byte) (hb : s.busy = false) :
    ((s.loadColor r g b v).begun.along
      (itemEvents (packetItems (reduceBrightness s.cfg.brightReduce v) { red := r, green := g, blue := b })) 0
      96).completed = { s with
      op := 2, bright5 := reduceBrightness s.cfg.brightReduce v, red := r, green := g, blue := b,
      idx := 0, bit := 0, sub := 0, pins := { s.pins with datLvl := r.getLsbD 0, clkLvl := false }, tx := true,
      evt := s.evt ++ [controlByte (reduceBrightness s.cfg.brightReduce v), b, g, r].flatMap xferByte,
      wire := s.wire ++ (if s.configured then
        [controlByte (reduceBrightness s.cfg.brightReduce v), b, g, r].flatMap byteBits else []),
      script := s.script.drop 96 } := by
  rw [itemEvents_packetItems]
  refine (congrArg State.completed
    (State.along_bytes _ [controlByte (reduceBrightness s.cfg.brightReduce v), b, g] r 0 96)).trans ?_
  simp only [State.completed, State.begun, State.loadColor, hb]
  rfl

/-- Settles O39: the walk of `State.run_color` sends the four bytes of the packet; that both reductions keep
a brightness up to 31 is O14. -/
theorem colorSendsThePacketAndCompletes : Obligations.ColorSendsThePacketAndCompletes := by
  intro s r g b v c hr hu hc
  obtain rfl : c = controlByte (reduceBrightness s.cfg.brightReduce v) := hc
  obtain ⟨hb, -⟩ := State.cmdReady_iff.mp hr
  obtain ⟨-, hbrightness⟩ := brightnessReduction
  obtain ⟨hkept, -⟩ := hbrightness v
  exact ⟨fun hv => (hkept hv s.cfg.brightReduce).2, _, _, exec_of_ready (i := .color r g b v) rfl hr,
    State.run_color r g b v hr hu, State.completed_color r g b v hb⟩

end Sys2Proof.Machine
end

section
/-! SUPPORT. The number of end-frame bytes, and END from its acceptance to its completion or to the fault at its last item (43_end_frame.md R120 to R126; 60_exceptions.md R162). -/

namespace Sys2Proof.Machine

/-! ### The number of end-frame bytes -/

/-- The padding length stands between two multiples of 16 (`43_end_frame.md` R122). -/
theorem padBytes_eq_iff (n k : Nat) : padBytes n = k ↔ 16 * k ≤ n + 14 ∧ n + 14 < 16 * k + 16 := by
  rw [padBytes, Nat.div_eq_iff (by decide)]
  omega

/-- Settles O15: each clause but the table is a reading of the two multiples of 16 around `count + 14`. -/
theorem paddingLength : Obligations.PaddingLength := by
  refine ⟨fun n => ?_, by decide⟩
  obtain ⟨hlo, hhi⟩ := (padBytes_eq_iff n _).mp rfl
  refine ⟨rfl, fun hn => ?_, ?_, fun k hk => ?_, ?_, ?_⟩
  · rw [padBytes, show n - 1 + 15 = n + 14 by omega]
  · rw [padBytes_eq_iff]
    omega
  · rw [padBytes_eq_iff]
    omega
  · omega
  · omega

/-! ### What the padding does -/

/-- The padding is the transfer of eight zero bits a byte (`30_encoding.md` R63). -/
theorem itemEvents_padding (m : Nat) :
    itemEvents (List.replicate m (.byte 0)) = (List.replicate (8 * m) false).flatMap xferBit := by
  rw [itemEvents_zeros, List.flatMap_replicate]

/-- Padding, where there is any, leaves both levels low (`43_end_frame.md` R126). -/
theorem Pins.afterAll_padding (m : Nat) (p : Pins) :
    p.afterAll (itemEvents (List.replicate m (.byte 0))) =
      if m = 0 then p else { p with datLvl := false, clkLvl := false } := by
  rw [itemEvents_padding, Pins.afterAll_bits]
  cases m with
  | zero => rfl
  | succ m => simp [List.getLast?_replicate]

/-- Padding, where there is any, sets `TX` (`10_state.md` R16). -/
theorem txAfterAll_padding (m : Nat) (tx : Bool) :
    txAfterAll (itemEvents (List.replicate m (.byte 0))) tx = (tx || decide (0 < m)) := by
  rw [itemEvents_padding, txAfterAll_bits]
  simp [Nat.pos_iff_ne_zero]

/-- The zero bits of the padding reach `WIRE` when the lines are outputs (`10_state.md` R31). -/
theorem sampledFrom_padding (m : Nat) (p : Pins) :
    sampledFrom p (itemEvents (List.replicate m (.byte 0))) =
      if p.configured then List.replicate (8 * m) false else [] := by
  rw [itemEvents_padding, sampledFrom_bits]

theorem itemEvents_endItems (m : Nat) :
    itemEvents (endItems m) = itemEvents (List.replicate m (.byte 0)) ++ [.cfg] := by
  rw [endItems, itemEvents_append]
  rfl

/-- END's own `Cfg` comes last, so the lines met at its acceptance decide which bits reach `WIRE`. -/
theorem sampledFrom_endItems (m : Nat) (p : Pins) :
    sampledFrom p (itemEvents (endItems m)) = if p.configured then List.replicate (8 * m) false else [] := by
  rw [itemEvents_endItems, sampledFrom_append, sampledFrom_padding]
  exact List.append_nil _

/-! ### END completes -/

/-- The whole state at the completion of an END. -/
theorem State.completed_end {s : State} (n k : Nat) (hb : s.busy = false) :
    ((s.loadEndFrame n).begun.along (itemEvents (endItems (padBytes n))) 0 k).completed = { s with
      op := 3, count := n, npad := padBytes n, idx := 0, bit := 0, sub := 0, pins := .idle, tx := false,
      evt := s.evt ++ ((List.replicate (8 * padBytes n) (xferBit false)).flatten ++ [.cfg]),
      wire := s.wire ++ (if s.configured then List.replicate (8 * padBytes n) false else []),
      script := s.script.drop k } := by
  have hpins : s.pins.afterAll (itemEvents (endItems (padBytes n))) = .idle := by
    rw [itemEvents_endItems, Pins.afterAll_cfg_last]
  have htx : txAfterAll (itemEvents (endItems (padBytes n))) s.tx = false := by
    rw [itemEvents_endItems, txAfterAll_cfg_last]
  have hwire : sampledFrom s.pins (itemEvents (endItems (padBytes n))) =
      if s.configured then List.replicate (8 * padBytes n) false else [] := sampledFrom_endItems _ _
  rw [← itemEvents_zeros, ← itemEvents_endItems]
  simp only [State.completed, State.along, State.begun, State.loadEndFrame, hb, hpins, htx, hwire]

/-- Settles O40: the walk of `State.run_end` sends the padding and performs one `Cfg`, after which the block is ready
again. -/
theorem endSendsThePaddingAndCompletes : Obligations.EndSendsThePaddingAndCompletes := by
  intro s n hr hu
  obtain ⟨hb, -⟩ := State.cmdReady_iff.mp hr
  have hrun := State.run_end n hr hu
  rw [State.completed_end n _ hb] at hrun
  exact ⟨_, _, exec_of_ready (i := .endFrame n) rfl hr, hrun, rfl, State.status_of_ready_idle hr rfl rfl⟩

/-! ### A fault at a `CfgItem` -/

/-- A `CfgItem` at which the platform reports a failure: the fault is raised, `Cfg` is not performed and the position
stays (`45_bit_transfer.md` R151, `60_exceptions.md` R162). -/
theorem AtItem.run_failing_cfgItem {b : State} (h : AtItem b) (es : List PinEvent) (j n : Nat)
    (hit : (b.setIdx j).item = some .cfgItem) (hcan : b.cfg.gpioCfgCanFail = true)
    (hfail : (b.along es j n).input.gpioCfgFail = true) :
    run 1 (b.along es j n) = .next (b.along es j (n + 1)).raiseGpioConfigFault := by
  have hp : (b.along es j n).pending = .cfgItem := State.pending_cfg_of_item hit
  have he := State.fetchIfDue_of_none (State.fetchDue_of_pending_cfgItem hp)
  have ha := h.along es j n
  obtain ⟨hrst, hwrites⟩ := State.input_harmless ha.calm
  have hcf : (b.along es j n).input.cfgFails (b.along es j n).cfg = true := by
    rw [HostInput.cfgFails, hfail, Bool.and_true]
    exact hcan
  have hstep := step_cfgItem hwrites hrst ha.busy ha.noFault (by rw [he]; exact hp)
  rw [he, hcf] at hstep
  rw [run_one hstep]
  simp [State.cfgItemStep, State.raiseGpioConfigFault, State.dropInputs, State.along]

/-- The input at hand after as many micro-steps as stand before it in the script. -/
theorem State.input_along_of_script {b : State} {before later : List HostInput} {inp : HostInput}
    (hs : b.script = before ++ inp :: later) (es : List PinEvent) (j : Nat) :
    (b.along es j before.length).input = inp := by
  show (b.script.drop before.length).headD .quiet = inp
  rw [hs, List.drop_left]
  rfl

/-- The whole state after the fault at the last item of an END. -/
theorem State.faulted_end (s : State) (n k : Nat) :
    ((s.loadEndFrame n).begun.along (itemEvents (List.replicate (padBytes n) (.byte 0))) (padBytes n)
      k).raiseGpioConfigFault = { s with
      op := 3, count := n, npad := padBytes n, idx := padBytes n, bit := 0, sub := 0, busy := true, fault := true,
      tx := s.tx || decide (0 < padBytes n),
      pins := if padBytes n = 0 then s.pins else { s.pins with datLvl := false, clkLvl := false },
      evt := s.evt ++ (List.replicate (8 * padBytes n) (xferBit false)).flatten,
      wire := s.wire ++ (if s.configured then List.replicate (8 * padBytes n) false else []),
      script := s.script.drop k } := by
  have hwire : sampledFrom s.pins (itemEvents (List.replicate (padBytes n) (.byte 0))) =
      if s.configured then List.replicate (8 * padBytes n) false else [] := sampledFrom_padding _ _
  rw [← itemEvents_zeros]
  simp only [State.raiseGpioConfigFault, State.along, State.begun, State.loadEndFrame, Pins.afterAll_padding,
    txAfterAll_padding, hwire]

/-- Settles O34: the padding does not look at `gpio_cfg_fail`, and the input at hand after it is the failing one. -/
theorem aFaultAtTheEndComesAfterThePadding : Obligations.AFaultAtTheEndComesAfterThePadding := by
  intro s n before inp later hr hcan hu hs hlen hfail
  have hdrop : s.script.drop (24 * padBytes n + 1) = later := by
    rw [hs, ← hlen, List.drop_append]
    simp
  have hinput := State.input_along_of_script (b := (s.loadEndFrame n).begun) hs
    (itemEvents (List.replicate (padBytes n) (.byte 0))) (padBytes n)
  rw [hlen] at hinput
  have hfault := (AtItem.begun (l := s.loadEndFrame n) hr hu rfl rfl).run_failing_cfgItem
    (itemEvents (List.replicate (padBytes n) (.byte 0))) (padBytes n) (24 * padBytes n) (s.item_end_last n) hcan
    (by rw [hinput]; exact hfail)
  have hrun := run_trans (State.run_end_padding n hr hu) hfault
  rw [State.faulted_end, hdrop] at hrun
  exact ⟨_, _, exec_of_ready (i := .endFrame n) rfl hr, hrun, rfl⟩

end Sys2Proof.Machine
end

section
/-! SUPPORT. A fault at the first item of INIT, START or WRITE, and at the last item of WRITE (44_write.md R137; 60_exceptions.md R160, R162). -/

namespace Sys2Proof.Machine

/-! ### A fault at the first item -/

/-- The step of a busy block at a `CfgItem` at which the platform reports a failure (`45_bit_transfer.md` R151). -/
theorem step_failing_cfgItem {s : State} (hw : s.input.pixWrites = []) (hr : s.input.rst = false) (hb : s.busy = true)
    (hf : s.fault = false) (hp : s.pending = .cfgItem) (hcan : s.cfg.gpioCfgCanFail = true)
    (hfail : s.input.gpioCfgFail = true) : step s = .next (s.dropInputs 1).raiseGpioConfigFault := by
  have he := State.fetchIfDue_of_none (State.fetchDue_of_pending_cfgItem hp)
  have hc : s.input.cfgFails s.cfg = true := by rw [HostInput.cfgFails, hcan, hfail]; rfl
  rw [step_cfgItem hw hr hb hf (by rw [he]; exact hp), he, hc]
  rfl

/-- Settles O33: INIT, START and WRITE begin at a `CfgItem`, where the failing input meets them. -/
theorem aFaultAtTheFirstItemSendsNothing : Obligations.AFaultAtTheFirstItemSendsNothing := by
  intro s i hr hcan hi hrst hw hfail
  obtain ⟨ho, hp⟩ : i.isOperation = true ∧ (s.latched i).begun.pending = .cfgItem := by
    obtain rfl | rfl | ⟨n, v, rfl⟩ := hi
    · exact ⟨rfl, rfl⟩
    · exact ⟨rfl, rfl⟩
    · exact ⟨rfl, rfl⟩
  have hexec := exec_of_ready (isCommand_of_isOperation ho) hr
  rw [if_pos ho] at hexec
  have hin : (s.latched i).begun.input = s.input := by simp [State.input]
  have hf : (s.latched i).begun.fault = false := by simpa using (State.cmdReady_iff.mp hr).2
  have hstep := step_failing_cfgItem (s := (s.latched i).begun) (by rw [hin]; exact hw) (by rw [hin]; exact hrst) rfl hf
    hp (by simpa using hcan) (by rw [hin]; exact hfail)
  refine ⟨_, _, hexec, hstep, ?_, by simp, by simp, by simp, by simp, rfl, rfl⟩
  simp [State.raiseGpioConfigFault, State.dropInputs]

/-! ### What a WRITE has sent before its last item -/

theorem State.expand_write_body (s : State) (n : Nat) (v : Byte) :
    s.expand (.write n v) = s.writeBody n v ++ [.cfgItem] := by
  simp [State.expand, State.writeBody, State.pixelItems, endItems]

/-- Before its last `CfgItem` a WRITE has performed a `Cfg` and sent its whole byte stream (`44_write.md` R131). -/
theorem State.itemEvents_writeBody (s : State) (n : Nat) (v : Byte) :
    itemEvents (s.writeBody n v) =
      .cfg :: (streamBytes (s.writePackets n (reduceBrightness s.cfg.brightReduce v))).flatMap xferByte := by
  have h := s.itemEvents_write n v
  rw [s.expand_write_body, itemEvents_append] at h
  exact List.append_cancel_right h

/-- The latches after a `Cfg` and some bytes: configured, the clock low, the data line at the last bit. -/
theorem Pins.afterAll_cfg_bytes (bs : List Byte) (p : Pins) :
    p.afterAll (.cfg :: bs.flatMap xferByte) = { Pins.idle with datLvl := (bs.getLastD 0).getLsbD 0 } := by
  have hlast : (bs.flatMap byteBits).getLastD false = (bs.getLastD 0).getLsbD 0 := by
    cases bs using List.reverseRecOn with
    | nil => rfl
    | append_singleton bs v => simp [byteBits]
  rw [Pins.afterAll_cons, flatMap_xferByte, Pins.afterAll_bits, ← hlast]
  simp [Pins.after, Pins.idle]

/-- The bits of the bytes after a `Cfg` all reach `WIRE`. -/
theorem sampledFrom_cfg_bytes (bs : List Byte) (p : Pins) :
    sampledFrom p (.cfg :: bs.flatMap xferByte) = bs.flatMap byteBits := by
  rw [sampledFrom_cons, flatMap_xferByte, sampledFrom_bits]
  rfl

/-- A byte stream has at least the four bytes of the start frame, so sending it sets `TX` (`10_state.md` R16). -/
theorem txAfterAll_cfg_streamBytes (ps : List Packet) (tx : Bool) :
    txAfterAll (.cfg :: (streamBytes ps).flatMap xferByte) tx = true := by
  have hne : (streamBytes ps).flatMap byteBits ≠ [] := by simp [streamBytes]
  rw [txAfterAll_cons, flatMap_xferByte, txAfterAll_bits, decide_eq_true hne, Bool.or_true]

/-- The last byte of a WRITE's stream: the red of the only pixel if there is one pixel, else a byte of the start frame or
of the padding (`43_end_frame.md` R122). -/
theorem State.getLastD_write (s : State) (n : Nat) (b5 : BitVec 5) :
    (streamBytes (s.writePackets n b5)).getLastD 0 = if n = 1 then (s.pixelAt 0).red else 0 := by
  rw [streamBytes, State.writePackets_length]
  match n with
  | 0 => rfl
  | 1 => rfl
  | n + 2 =>
    obtain ⟨k, hk⟩ : ∃ k, padBytes (n + 2) = k + 1 := ⟨n / 16, by rw [padBytes]; omega⟩
    rw [hk, List.replicate_succ' (n := k), ← List.append_assoc, List.getLastD_concat, if_neg (by omega)]

/-- The whole state after the fault at the last item of a WRITE. -/
theorem State.faulted_write (s : State) (n : Nat) (v : Byte) (k : Nat) {bytes : List Byte}
    (hbytes : bytes = streamBytes (s.writePackets n (reduceBrightness s.cfg.brightReduce v))) :
    (((s.loadWrite n v).begun.fetchPixels n).along (itemEvents (s.writeBody n v)) (5 + 4 * n + padBytes n)
      k).raiseGpioConfigFault = { s with
      op := 4, count := n, npad := padBytes n, bright5 := reduceBrightness s.cfg.brightReduce v,
      red := if n = 0 then s.red else (s.pixelAt (n - 1)).red,
      green := if n = 0 then s.green else (s.pixelAt (n - 1)).green,
      blue := if n = 0 then s.blue else (s.pixelAt (n - 1)).blue, draws := s.draws + n,
      idx := 5 + 4 * n + padBytes n, bit := 0, sub := 0, busy := true, fault := true, tx := true,
      pins := { datOe := true, datLvl := if n = 1 then (s.pixelAt 0).red.getLsbD 0 else false, clkOe := true,
                clkLvl := false },
      evt := s.evt ++ .cfg :: bytes.flatMap xferByte, wire := s.wire ++ bytes.flatMap byteBits,
      script := s.script.drop k } := by
  have hlvl : (bytes.getLastD 0).getLsbD 0 = if n = 1 then (s.pixelAt 0).red.getLsbD 0 else false := by
    rw [hbytes, State.getLastD_write]
    split <;> rfl
  have htx := txAfterAll_cfg_streamBytes (s.writePackets n (reduceBrightness s.cfg.brightReduce v)) s.tx
  rw [State.itemEvents_writeBody, ← hbytes, State.fetchPixels_eq, ← hlvl]
  rw [← hbytes] at htx
  simp only [State.raiseGpioConfigFault, State.along, State.begun, State.loadWrite, Pins.afterAll_cfg_bytes,
    sampledFrom_cfg_bytes, htx]
  rfl

/-- `STATUS` of a faulted block in the middle of a transmission: all four bits (`10_state.md` R19). -/
theorem State.status_of_faulted {s : State} (hc : s.configured = true) (hf : s.fault = true) (ht : s.tx = true)
    (hb : s.busy = true) : s.status = 0b1111#4 := by
  rw [State.status, hc, hf, ht, hb]
  rfl

/-- Settles O35: the frame and its padding do not look at `gpio_cfg_fail` after the first item, and the input at hand
after them is the failing one. -/
theorem aFaultAtTheEndOfAWriteComesAfterTheWholeFrame :
    Obligations.AFaultAtTheEndOfAWriteComesAfterTheWholeFrame := by
  intro s n v before inp later bytes hr hcan hu hs hlen hfirst hfail hbytes
  rw [State.transmissionBytes_pixels] at hbytes
  have hdrop : s.script.drop (1 + 24 * (4 + 4 * n + padBytes n) + 1) = later := by
    rw [hs, ← hlen, List.drop_append]
    simp
  have hat := (AtItem.begun (l := s.loadWrite n v) hr hu rfl rfl).fetchPixels n
  have hq := State.fetchPixels_eq n (s.loadWrite n v).begun
  have hitem := State.item_write_last (b := (s.loadWrite n v).begun.fetchPixels n) (by rw [hq]; rfl)
  have hinput := State.input_along_of_script (b := (s.loadWrite n v).begun.fetchPixels n) (by rw [hq]; exact hs)
    (itemEvents (s.writeBody n v)) (5 + 4 * n + padBytes n)
  rw [hlen] at hinput
  have hfault := hat.run_failing_cfgItem (itemEvents (s.writeBody n v)) (5 + 4 * n + padBytes n)
    (1 + 24 * (4 + 4 * n + padBytes n)) (by rw [hq] at hitem ⊢; exact hitem) (by rw [hq]; exact hcan)
    (by rw [hinput]; exact hfail)
  have hrun := run_trans (State.run_write_body n v hr hu hfirst) hfault
  rw [State.faulted_write s n v _ hbytes, hdrop, Nat.add_right_comm] at hrun
  exact ⟨_, _, exec_of_ready (i := .write n v) rfl hr, hrun, rfl, State.status_of_faulted rfl rfl rfl rfl⟩

end Sys2Proof.Machine
end

section
/-! SUPPORT. A list of commands from the port, each run to its completion, and the host's own expansion of a WRITE (30_encoding.md R81; 44_write.md R136; 45_bit_transfer.md R147, R154). -/

namespace Sys2Proof.Machine

/-! ### One command from the port -/

/-- An operation on the port of an undisturbed ready block sends its expansion, and the words behind it wait. -/
theorem State.run_presented {s : State} {i : Instr} {c : CommandWord} {rest : List CommandWord}
    (hr : s.cmdReady = true) (hu : s.undisturbed = true) (hwh : s.input.withhold = false)
    (ho : i.isOperation = true) (hi : i.wellFormed s.cfg = true) (hc : encode i = .cmd c) (hq : s.cmds = c :: rest) :
    ∃ t, run (1 + microSteps i) s = .next t
      ∧ ((s.withCmds rest).dropInputs (1 + microSteps i)).Sent (itemEvents (s.expand i)) t := by
  have hdec : decodeCommand s.cfg c = i := by
    have h := decodeOfEncodeIsTheInstruction s.cfg i hi
    rw [hc] at h
    exact Except.ok.inj h
  have hx : (s.dropInputs 1).takeCommand.expand i = s.expand i := State.expand_congr rfl fun _ _ _ _ _ => rfl
  obtain ⟨hcfg, hpins, htx, hevt, hwire, hbusy, hfault, hpix, hcmds, hscript⟩ :=
    (s.dropInputs 1).takeCommand.sent_commandMeaning ho
  rw [hx] at hpins htx hevt hwire
  refine ⟨_, State.run_command hr hu hq hwh hdec ho, hcfg, hpins, htx, hevt, hwire, hbusy, hfault, hpix, ?_,
    (congrArg (List.drop _) hscript).trans List.drop_drop⟩
  simp [hcmds, hq, State.withCmds]

/-! ### A list of commands -/

/-- Steps of a list of operations, with the acceptance of each (`45_bit_transfer.md` R154). -/
def commandSteps (is : List Instr) : Nat := (is.map (fun i => 1 + microSteps i)).sum

theorem commandSteps_cons (i : Instr) (is : List Instr) :
    commandSteps (i :: is) = 1 + microSteps i + commandSteps is := rfl

theorem commandSteps_append (is js : List Instr) : commandSteps (is ++ js) = commandSteps is + commandSteps js := by
  simp [commandSteps]

/-- An operation whose operands are all in its word, so that it expands alike at any later time. -/
def carriesItsOperands : Instr → Bool
  | .init | .start | .color .. | .endFrame _ => true
  | .write .. | .reserved5 | .reserved6 | .reserved7 | .wireStartFrame | .wirePixel .. | .wireEndPad => false

/-- What an operation that carries its operands sends depends on the parameters only. -/
theorem State.expand_of_carriesItsOperands {s s' : State} {i : Instr} (hc : s'.cfg = s.cfg)
    (hi : carriesItsOperands i = true) : s'.expand i = s.expand i :=
  State.expand_congr hc fun _ _ hw => by rw [hw] at hi; cases hi

theorem isOperation_of_carriesItsOperands {i : Instr} (hi : carriesItsOperands i = true) :
    i.isOperation = true := by
  cases i with
  | init | start | color | endFrame => rfl
  | write | reserved5 | reserved6 | reserved7 | wireStartFrame | wirePixel | wireEndPad => cases hi

/-- A word is presented in the first micro-step when it is in all. -/
theorem State.withhold_of_all {s : State} (h : s.script.all (fun inp => !inp.withhold) = true) :
    s.input.withhold = false := by
  cases hs : s.script with
  | nil => simp [State.input, hs, HostInput.quiet]
  | cons i is => simp_all [State.input]

/-- One command's events and then another's are the events of both. -/
theorem State.Sent.trans {s t u : State} {es es' : List PinEvent} {q q' : List CommandWord} {j k : Nat}
    (h : ((s.withCmds q).dropInputs j).Sent es t) (h' : ((t.withCmds q').dropInputs k).Sent es' u) :
    ((s.withCmds q').dropInputs (j + k)).Sent (es ++ es') u where
  cfg := h'.cfg.trans h.cfg
  pins := by
    have hp : u.pins = t.pins.afterAll es' := h'.pins
    rw [hp, h.pins, Pins.afterAll_append]
    rfl
  tx := by
    have ht : u.tx = txAfterAll es' t.tx := h'.tx
    rw [ht, h.tx, txAfterAll_append]
    rfl
  evt := by
    have he : u.evt = t.evt ++ es' := h'.evt
    rw [he, h.evt, List.append_assoc]
    rfl
  wire := by
    have hw : u.wire = t.wire ++ sampledFrom t.pins es' := h'.wire
    rw [hw, h.wire, h.pins, List.append_assoc, ← sampledFrom_append]
    rfl
  busy := h'.busy
  fault := h'.fault.trans h.fault
  pix := h'.pix.trans h.pix
  cmds := h'.cmds
  script := by
    have hs : u.script = t.script.drop k := h'.script
    rw [hs, h.script]
    exact List.drop_drop

/-- Operations that carry their operands, presented one behind the other to an undisturbed ready block, are all sent in
order, and the block is ready again. -/
theorem State.run_commands {s : State} (is : List Instr) (hr : s.cmdReady = true) (hu : s.undisturbed = true)
    (hwh : s.script.all (fun inp => !inp.withhold) = true) (ho : ∀ i ∈ is, carriesItsOperands i = true)
    (hi : ∀ i ∈ is, i.wellFormed s.cfg = true) (hq : s.cmds = is.filterMap commandWordOf) :
    ∃ t, run (commandSteps is) s = .next t
      ∧ ((s.withCmds []).dropInputs (commandSteps is)).Sent (itemEvents (is.flatMap s.expand)) t := by
  induction is generalizing s with
  | nil =>
    exact ⟨s, rfl, rfl, rfl, rfl, (List.append_nil _).symm, (List.append_nil _).symm, (State.cmdReady_iff.mp hr).1, rfl,
      rfl, hq, rfl⟩
  | cons i is ih =>
    obtain ⟨hoi, hois⟩ := List.forall_mem_cons.mp ho
    obtain ⟨hii, hiis⟩ := List.forall_mem_cons.mp hi
    have hop := isOperation_of_carriesItsOperands hoi
    obtain ⟨c, hc⟩ := encode_of_isCommand (isCommand_of_isOperation hop)
    have hw : commandWordOf i = some c := by rw [commandWordOf, hc]
    rw [List.filterMap_cons_some hw] at hq
    obtain ⟨t, ht, hsent⟩ := State.run_presented hr hu (State.withhold_of_all hwh) hop hii hc hq
    have hscript : t.script = s.script.drop (1 + microSteps i) := hsent.script
    have hcfg : t.cfg = s.cfg := hsent.cfg
    have htr : t.cmdReady = true :=
      State.cmdReady_iff.mpr ⟨hsent.busy, hsent.fault.trans (State.cmdReady_iff.mp hr).2⟩
    obtain ⟨u, hu', hsent'⟩ := ih htr (by rw [State.undisturbed, hscript]; exact State.undisturbed_drop _ hu)
      (by rw [hscript]; exact all_drop _ hwh) hois (by rw [hcfg]; exact hiis) hsent.cmds
    have hx : is.flatMap t.expand = is.flatMap s.expand :=
      List.flatMap_congr fun j hj => State.expand_of_carriesItsOperands hcfg (hois j hj)
    rw [hx] at hsent'
    refine ⟨u, run_trans ht hu', ?_⟩
    rw [List.flatMap_cons, itemEvents_append]
    exact hsent.trans hsent'

/-! ### The host's own expansion of a WRITE -/

/-- START, the COLORs and END together expand to the items of the WRITE (`44_write.md` R136). -/
theorem State.expand_hostExpansion (s : State) (n : Nat) (v : Byte) :
    (s.hostExpansion n v).flatMap s.expand = s.expand (.write n v) := by
  rw [State.hostExpansion, List.flatMap_append, List.flatMap_append, List.flatMap_map, List.flatMap_singleton,
    List.flatMap_singleton]
  rfl

theorem State.mem_hostExpansion {s : State} {n : Nat} {v : Byte} {i : Instr} (h : i ∈ s.hostExpansion n v) :
    i = .start ∨ (∃ r g b, i = .color r g b v) ∨ i = .endFrame n := by
  simp only [State.hostExpansion, List.mem_append, List.mem_singleton, List.mem_map] at h
  obtain (h | ⟨k, -, h⟩) | h := h
  · exact .inl h
  · exact .inr (.inl ⟨_, _, _, h.symm⟩)
  · exact .inr (.inr h)

/-- The host's own expansion takes as many steps as the WRITE and `n + 1` more acceptances. -/
theorem State.commandSteps_hostExpansion (s : State) (n : Nat) (v : Byte) :
    commandSteps (s.hostExpansion n v) = n + 2 + microSteps (.write n v) := by
  have hcolors : ∀ px : Nat → Pixel,
      commandSteps ((List.range n).map fun i => .color (px i).red (px i).green (px i).blue v) = 97 * n := by
    intro px
    simp [commandSteps, Function.comp_def, microSteps, Nat.mul_comm]
  rw [State.hostExpansion, commandSteps_append, commandSteps_append, hcolors s.pixelAt]
  simp only [commandSteps, microSteps, List.map_cons, List.map_nil, List.sum_cons, List.sum_nil]
  omega

/-- Settles O47: both runs send the items of the WRITE from the same latches, `TX` and logs. -/
theorem writeEqualsTheHostsOwnExpansion : Obligations.WriteEqualsTheHostsOwnExpansion := by
  intro s n v hr hu hwh hn
  obtain ⟨t, ht, hwrite⟩ := State.run_presented (s := s.withCmds ([Instr.write n v].filterMap commandWordOf))
    (i := .write n v) hr hu (State.withhold_of_all hwh) rfl (decide_eq_true hn) rfl rfl
  obtain ⟨u, hu', hhost⟩ := State.run_commands (s := s.withCmds ((s.hostExpansion n v).filterMap commandWordOf))
    (s.hostExpansion n v) hr hu hwh
    (fun i hi => by obtain rfl | ⟨r, g, b, rfl⟩ | rfl := State.mem_hostExpansion hi <;> rfl)
    (fun i hi => by
      obtain rfl | ⟨r, g, b, rfl⟩ | rfl := State.mem_hostExpansion hi
      · rfl
      · rfl
      · exact decide_eq_true hn) rfl
  have hx : itemEvents ((s.hostExpansion n v).flatMap
      (s.withCmds ((s.hostExpansion n v).filterMap commandWordOf)).expand) = itemEvents (s.expand (.write n v)) := by
    rw [← s.expand_hostExpansion]
    rfl
  rw [hx] at hhost
  rw [s.commandSteps_hostExpansion] at hu'
  exact ⟨t, u, ht, hu', hwrite.cmds, hhost.cmds, hwrite.busy, hhost.busy, hwrite.evt.trans hhost.evt.symm,
    hwrite.wire.trans hhost.wire.symm, hwrite.pins.trans hhost.pins.symm, hwrite.tx.trans hhost.tx.symm⟩

end Sys2Proof.Machine
end

section
/-! SUPPORT. The pixel fetch of a WRITE beside the host's writes of the same micro-step (10_state.md R34; 20_memory.md R41, R46, R51; 44_write.md R134). -/

namespace Sys2Proof.Machine

/-- At the first pin event of the control byte of a pixel the fetch of that pixel is due (`44_write.md` R134). -/
theorem State.fetchDue_of_controlByte {s : State} {i : Nat} (hop : s.op = 4) (hidx : s.idx = 5 + 4 * i)
    (hi : i < s.count) (hbit : s.bit = 0) (hsub : s.sub = 0) : s.fetchDue = some i := by
  have h := State.fetchDue_write_pixel hop hbit hsub hi
  rwa [← hidx] at h

/-- There the position is at byte 0 of the packet of the pixel in the colour latches (`44_write.md` R132). -/
theorem State.pending_of_controlByte {s : State} {i : Nat} (hop : s.op = 4) (hidx : s.idx = 5 + 4 * i)
    (hi : i < s.count) :
    s.pending = .frame (.wirePixel s.bright5 s.blue s.green s.red) ∧ s.byteIndex = 0 := by
  refine ⟨?_, ?_⟩
  · rw [State.pending_write hop, if_neg (by omega), if_neg (by omega), if_pos (by omega)]
  · rw [State.byteIndex_write hop, if_neg (by omega)]
    omega

/-- The first pin event of a control byte sets the data line: the marker's top bit is 1 (`30_encoding.md` R65). -/
theorem controlByte_getLsbD_seven (v : BitVec 5) : (controlByte v).getLsbD 7 = true := by
  revert v
  decide

/-- The block's micro-step at the first pin event of the control byte of a pixel. -/
theorem BlockGoes.fetches {inp : HostInput} {u : State} {i : Nat} (hr : inp.rst = false) (hf : u.fault = false)
    (hb : u.busy = true) (hop : u.op = 4) (hidx : u.idx = 5 + 4 * i) (hi : i < u.count) (hbit : u.bit = 0)
    (hsub : u.sub = 0) : BlockGoes inp u (((u.pixelFetch i).emit (.setD true)).setPos 0 1) := by
  have he : u.fetchIfDue = u.pixelFetch i := by
    rw [State.fetchIfDue, State.fetchDue_of_controlByte hop hidx hi hbit hsub]
  obtain ⟨hp, -⟩ := State.pending_of_controlByte (s := u.pixelFetch i) hop hidx hi
  obtain ⟨-, hx⟩ := State.pending_of_controlByte hop hidx hi
  have hgo := BlockGoes.setsData (inp := inp) (u := u) _ hr hf hb (by rw [he]; exact hp) hsub
  rw [he, hx, (frameByte_pixel _ _ _ _).1, hbit] at hgo
  rwa [show 7 - (0 : BitVec 3).toNat = 7 from rfl, controlByte_getLsbD_seven] at hgo

/-- A byte the host holds, before or after its writes of the micro-step as the micro-step sees them, is the byte a read
gives (`20_memory.md` R51). -/
theorem State.byteAt_beginMicroStep {s : State} {inp : HostInput} {a : Nat} {x : Byte}
    (h : Memory.read (if inp.writesFirst then Memory.writeAll s.pix inp.pixWrites else s.pix) a = some x) :
    (s.beginMicroStep inp).byteAt a = x := by
  rw [State.byteAt, Memory.fetchByte, State.beginMicroStep_pix, h]
  rfl

/-- Settles O53: the fetch reads the pixel space as the beginning of the micro-step leaves it. -/
theorem thePixelFetchReadsThreeBytes : Obligations.ThePixelFetchReadsThreeBytes := by
  intro s i hb hf hr hw hop hidx hi hbit hsub
  have haddr : s.pixAddr = some (3 * i) := by
    rw [State.pixAddr, hb, hf, hr, State.fetchDue_of_controlByte hop hidx hi hbit hsub]
    rfl
  have hgo := BlockGoes.fetches (inp := s.input) (u := s.beginMicroStep s.input) (i := i) hr (by simpa using hf)
    (by simpa using hb) (by simpa using hop) (by simpa using hidx) (by simpa using hi) (by simpa using hbit)
    (by simpa using hsub)
  have hstep := hgo.step_eq hw
  refine ⟨haddr, _, _, hstep, ?_, rfl, fun x hx => ?_, fun x hx => ?_, fun x hx => ?_, ?_,
    theBlockWritesNoPixel _ _ hstep⟩
  · rw [State.pixData, haddr]
    simp [State.pixDataAt]
  · simpa using State.byteAt_beginMicroStep hx
  · simpa using State.byteAt_beginMicroStep hx
  · simpa using State.byteAt_beginMicroStep hx
  · simp

end Sys2Proof.Machine
end

section
/-! SUPPORT. Acceptance, the block that stands still, and that a block under the invariant always has a next step (45_bit_transfer.md R149, R150, R155; 60_exceptions.md R168). -/

namespace Sys2Proof.Machine

/-! ### Acceptance -/

/-- Settles O18: each operation's arm of exec is its acceptance. -/
theorem acceptanceWritesTheLatchesAndNothingElse : Obligations.AcceptanceWritesTheLatchesAndNothingElse :=
  fun _ hr => ⟨exec_of_ready (i := .init) rfl hr, exec_of_ready (i := .start) rfl hr,
    fun r g b v => exec_of_ready (i := .color r g b v) rfl hr, fun n => exec_of_ready (i := .endFrame n) rfl hr,
    fun n v => exec_of_ready (i := .write n v) rfl hr⟩

/-- A step whose writes are legal is the block's micro-step between the host's writes. -/
theorem step_of_legal {s : State} (hw : s.input.writesLegal s.cfg = true) :
    step s = finishMicroStep s.input ((s.beginMicroStep s.input).blockStep s.input) := by
  rw [step, State.microStep, if_pos hw]

/-- Settles O21: among the priorities of R168, no reset, no fault and no busy block stand before the word. -/
theorem aStepRunsTheCommandOnThePort : Obligations.AStepRunsTheCommandOnThePort := by
  intro s w rest hready hq hr hwh hw
  obtain ⟨hb, hf⟩ := State.cmdReady_iff.mp hready
  rw [step_of_legal hw]
  simp [State.blockStep, State.idleStep, State.presented, hr, hf, hb, hwh, hq]

/-- Settles O22: the micro-step of a busy block looks at what is pending after the fetch. -/
theorem aStepRunsTheWireFormatInFlight : Obligations.AStepRunsTheWireFormatInFlight := by
  intro s f hb hf hr hw hp
  rw [step_of_legal hw, State.blockStep_of_busy hr (by simpa using hf) (by simpa using hb), State.busyStep]
  simp only [hp]

/-- A ready block left alone takes the presented word: an operation is accepted, a reserved word is ignored. -/
theorem step_presented {s : State} {w : CommandWord} {rest : List CommandWord} (hr : s.cmdReady = true)
    (hq : s.cmds = w :: rest) (hrst : s.input.rst = false) (hwh : s.input.withhold = false)
    (hw : s.input.pixWrites = []) {i : Instr} (hi : decodeCommand s.cfg w = i) :
    step s = .next (if i.isOperation then (((s.withCmds rest).dropInputs 1).latched i).begun
      else (s.withCmds rest).dropInputs 1) := by
  have hready : (s.dropInputs 1).takeCommand.cmdReady = true := hr
  have htake : (s.dropInputs 1).takeCommand = (s.withCmds rest).dropInputs 1 := by
    simp [State.takeCommand, State.dropInputs, State.withCmds, hq]
  rw [step_takes hr hq hrst hwh hw, exec_of_ready (decodeCommand_isCommand _ _) hready, hi, htake]

/-- Settles O17: the word decodes by its fields to one of the eight commands, and `step_presented` says what each
writes. -/
theorem acceptanceOfAPresentedWord : Obligations.AcceptanceOfAPresentedWord := by
  intro s u w rest hr hq hrst hwh hw hu
  obtain rfl : u = (s.withCmds rest).dropInputs 1 := by
    rw [hu, State.dropInputs, List.drop_one]
    rfl
  obtain ⟨h0, h1, h2, h3, h4, h5, h6, h7⟩ := encodingIsTheFormulaOfTheSpec.2 s.cfg w
  have htakes {i : Instr} (hi : decodeCommand s.cfg w = i) := step_presented hr hq hrst hwh hw hi
  refine ⟨fun h => ?_, fun h => htakes (h0 h), fun h => htakes (h1 h), fun h => htakes (h2 h), fun h => htakes (h3 h),
    fun h => htakes (h4 h)⟩
  obtain h | h | h : w.toNat / 2 ^ 32 = 5 ∨ w.toNat / 2 ^ 32 = 6 ∨ w.toNat / 2 ^ 32 = 7 := by
    have := w.isLt
    omega
  · exact htakes (h5 h)
  · exact htakes (h6 h)
  · exact htakes (h7 h)

/-! ### The block that stands still -/

/-- A micro-step in which the block does nothing: the host's writes land, at the one end or the other. -/
theorem State.endMicroStep_beginMicroStep (inp : HostInput) (s : State) :
    (s.beginMicroStep inp).endMicroStep inp =
      { s with pix := Memory.writeAll s.pix inp.pixWrites, script := s.script.tail } := by
  unfold State.beginMicroStep State.endMicroStep
  cases inp.writesFirst <;> rfl

/-- Settles O32: both are ways of the block's micro-step that leave it as it is. -/
theorem faultedAndIdleBlocksStandStill : Obligations.FaultedAndIdleBlocksStandStill := by
  intro s hr hw h
  have hstill : BlockGoes s.input (s.beginMicroStep s.input) (s.beginMicroStep s.input) := by
    cases hf : s.fault with
    | true => exact .faulted hr (by simpa using hf)
    | false =>
      obtain ⟨hb, hq⟩ := h.resolve_left (by simp [hf])
      exact .waits hr (by simpa using hf) (by simpa using hb) (by simpa [State.presented] using hq)
  rw [hstill.step_eq hw, State.endMicroStep_beginMicroStep]

/-! ### There is always a next step -/

/-- Under the position's invariant a busy block without reset and fault performs its event or raises the fault. -/
theorem BlockGoes.exists_of_busy {inp : HostInput} {u : State} (hu : u.PositionInv) (hr : inp.rst = false)
    (hf : u.fault = false) (hb : u.busy = true) : ∃ b, BlockGoes inp u b := by
  cases hp : u.fetchIfDue.pending with
  | nothing =>
    have hpast := State.pending_nothing_iff.mp hp
    rw [State.len_fetchIfDue, State.fetchIfDue_idx] at hpast
    exact absurd (hu.busyInside hb) (by omega)
  | cfgItem =>
    have hd := State.fetchDue_of_cfgItem hp
    rw [State.fetchIfDue_of_none hd] at hp
    cases hc : inp.cfgFails u.cfg with
    | true => exact ⟨_, .fails hr hf hb hp hc⟩
    | false => exact ⟨_, .configures hr hf hb hp hd hc⟩
  | frame f =>
    by_cases h0 : u.sub = 0
    · exact ⟨_, .setsData f hr hf hb hp h0⟩
    rw [State.fetchIfDue_of_none (State.fetchDue_of_sub h0)] at hp
    by_cases h1 : u.sub = 1
    · exact ⟨_, .raisesClock f hr hf hb hp h1⟩
    have h2 : u.sub = 2 := by have := hu.subLegal; bv_omega
    by_cases h7 : u.bit = 7
    · exact ⟨_, .endsByte f hr hf hb hp h2 h7⟩
    · exact ⟨_, .lowersClock f hr hf hb hp h2 h7⟩

/-- An idle block without reset and fault takes the word on its port or waits. -/
theorem BlockGoes.exists_of_idle {inp : HostInput} {u : State} (hr : inp.rst = false) (hf : u.fault = false)
    (hb : u.busy = false) : ∃ b, BlockGoes inp u b := by
  cases hwh : inp.withhold with
  | true => exact ⟨_, .waits hr hf hb (by simp [State.presented, hwh])⟩
  | false =>
    cases hq : u.cmds with
    | nil => exact ⟨_, .waits hr hf hb (by simp [State.presented, hq])⟩
    | cons w rest =>
      cases ho : (decodeCommand u.cfg w).isOperation with
      | true => exact ⟨_, .accepts w rest hr hf hb hwh hq ho⟩
      | false => exact ⟨_, .ignores w rest hr hf hb hwh hq ho⟩

/-- Under the position's invariant one of the ways is open. -/
theorem BlockGoes.exists_of_positionInv (inp : HostInput) {u : State} (hu : u.PositionInv) :
    ∃ b, BlockGoes inp u b := by
  cases hr : inp.rst with
  | true => exact ⟨_, .reset hr⟩
  | false =>
    cases hf : u.fault with
    | true => exact ⟨_, .faulted hr hf⟩
    | false =>
      cases hb : u.busy with
      | true => exact BlockGoes.exists_of_busy hu hr hf hb
      | false => exact BlockGoes.exists_of_idle hr hf hb

/-- Settles O5: the invariant leaves the block a way to go, and the host's legal writes do not stop it. -/
theorem theBlockAlwaysTakesItsNextStep : Obligations.TheBlockAlwaysTakesItsNextStep := by
  intro s hs hw
  obtain ⟨b, hgo⟩ := BlockGoes.exists_of_positionInv s.input (hs.beginMicroStep hw).position
  exact ⟨_, hgo.step_eq hw⟩

end Sys2Proof.Machine
end

section
/-! SUPPORT. The three pin events of a bit, the step of a `CfgItem`, and the items of an expansion by their place (45_bit_transfer.md R140 to R142, R146, R151 to R153; 44_write.md R132). -/

namespace Sys2Proof.Machine

/-! ### Pin events -/

/-- All that `SetD(v)` writes (`45_bit_transfer.md` R140). -/
theorem State.emit_setD (v : Bool) (s : State) :
    s.emit (.setD v) = { s with pins := { s.pins with datLvl := v }, tx := true, evt := s.evt ++ [.setD v] } := by
  simp [State.emit, Pins.after, txAfter, sampledBits]

/-- All that `SetC(0)` writes (`45_bit_transfer.md` R141). -/
theorem State.emit_setC_low (s : State) :
    s.emit (.setC false) = { s with pins := { s.pins with clkLvl := false }, evt := s.evt ++ [.setC false] } := by
  simp [State.emit, Pins.after, txAfter, sampledBits]

/-- All that `Cfg` writes (`45_bit_transfer.md` R142). -/
theorem State.emit_cfgEvent (s : State) :
    s.emit .cfg = { s with pins := .idle, tx := false, evt := s.evt ++ [.cfg] } := by
  simp [State.emit, Pins.after, Pins.idle, txAfter, sampledBits]

theorem State.finishItem_of_last {s : State} (h : s.idx + 1 = s.len) :
    s.finishItem = { s with idx := 0, busy := false } := if_pos h

theorem State.finishItem_of_not_last {s : State} (h : s.idx + 1 ≠ s.len) :
    s.finishItem = { s with idx := s.idx + 1 } := if_neg h

/-- Settles O23: a wire format's arm of exec is the step of its current byte, by `SUB`. -/
theorem thePinEventsOfABit : Obligations.ThePinEventsOfABit := by
  intro s f hc hb hf
  rw [exec_of_frame hc]
  refine ⟨fun h => ?_, fun h => ?_, fun h h7 => ?_, fun h h7 hl => ?_, fun h h7 hl => ?_⟩
  · rw [byteStep_sub0 _ hb hf h, State.emit_setD]
    rfl
  · exact byteStep_sub1 _ hb hf h
  · rw [byteStep_sub2 _ hb hf h h7, State.emit_setC_low]
    rfl
  · rw [byteStep_sub2_last _ hb hf h h7, State.emit_setC_low]
    exact congrArg _ (State.finishItem_of_not_last (by exact hl))
  · rw [byteStep_sub2_last _ hb hf h h7, State.emit_setC_low]
    exact congrArg _ (State.finishItem_of_last (by exact hl))

/-- Finishing an item of a busy block, both branches at once. -/
theorem State.finishItem_of_busy {s : State} (hb : s.busy = true) :
    s.finishItem = { s with
      idx := if s.idx + 1 = s.len then 0 else s.idx + 1, busy := decide (s.idx + 1 ≠ s.len) } := by
  by_cases hl : s.idx + 1 = s.len
  · rw [State.finishItem_of_last hl, if_pos hl, decide_eq_false (not_not_intro hl)]
  · rw [State.finishItem_of_not_last hl, if_neg hl, decide_eq_true hl, ← hb]

/-- Settles O24: a `CfgItem` fetches no pixel; it raises the fault, or performs `Cfg` and is finished. -/
theorem theStepOfACfgItem : Obligations.TheStepOfACfgItem := by
  intro s hb hf hr hw hp
  have hstep := (step_of_no_writes hw).trans (State.blockStep_of_cfgItem (u := s.dropInputs 1) hr hf hb hp)
  rw [State.dropInputs, List.drop_one] at hstep
  refine ⟨fun hc => ?_, fun hc => ?_, fun hs => hs.position.cfgAtZero hb hp⟩
  · rw [hstep, show s.input.cfgFails s.cfg = true from Bool.and_eq_true_iff.mpr hc]
    rfl
  · rw [hstep, show s.input.cfgFails s.cfg = false from Bool.eq_false_iff.mpr fun h => hc (Bool.and_eq_true_iff.mp h),
      State.cfgItemStep, if_neg Bool.false_ne_true, State.emit_cfgEvent]
    exact congrArg _ (State.finishItem_of_busy (by exact hb))

/-! ### The items of an expansion -/

/-- Place `k` of copy `i` of a list of four is place `k` of the list. -/
theorem getElem?_flatten_replicate {α : Type} {l : List α} (hl : l.length = 4) {n i k : Nat} (hi : i < n)
    (hk : k < 4) : (List.replicate n l).flatten[4 * i + k]? = l[k]? := by
  induction n generalizing i with
  | zero => cases hi
  | succ n ih =>
    rw [List.replicate_succ, List.flatten_cons]
    cases i with
    | zero => rw [List.getElem?_append_left (by omega), Nat.mul_zero, Nat.zero_add]
    | succ i =>
      rw [List.getElem?_append_right (by omega), hl, show 4 * (i + 1) + k - 4 = 4 * i + k by omega]
      exact ih (by omega)

/-- The start frame's items by place (`41_start_frame.md` R101). -/
theorem startItems_getElem? (j : Nat) :
    startItems[j]? = if j = 0 then some .cfgItem else if j < 5 then some (.byte 0) else none := by
  by_cases h : j < 5
  · interval_cases j <;> rfl
  · rw [if_neg (by omega), if_neg h]
    exact List.getElem?_eq_none (Nat.not_lt.mp h)

/-- The padding's items and the `CfgItem` behind them, by place (`43_end_frame.md` R121). -/
theorem endItems_getElem? (n j : Nat) :
    (endItems n)[j]? = if j < n then some (.byte 0) else if j = n then some .cfgItem else none := by
  split_ifs with h h'
  · rw [endItems, List.getElem?_append_left (by simpa using h), List.getElem?_replicate, if_pos h]
  · rw [endItems, h', List.getElem?_append_right (by simp)]
    simp
  · exact List.getElem?_eq_none (by simp [endItems]; omega)

theorem State.item_init {s : State} (h : s.op = 0) : s.item = initItems[s.idx]? := by
  rw [State.item, State.pending_init h]
  split_ifs with h0
  · rw [h0]; rfl
  · exact (List.getElem?_eq_none (Nat.pos_of_ne_zero h0)).symm

theorem State.item_start {s : State} (h : s.op = 1) : s.item = startItems[s.idx]? := by
  rw [State.item, State.pending_start h, startItems_getElem?]
  split_ifs <;> simp [frameByte_startFrame]

theorem State.item_color {s : State} (h : s.op = 2) : s.item = (packetItems s.bright5 s.pixel)[s.idx]? := by
  by_cases hk : s.idx < 4
  · exact State.item_color_pixel h hk
  · rw [State.item, State.pending_color h, if_neg hk]
    exact (List.getElem?_eq_none (Nat.not_lt.mp hk)).symm

theorem State.item_end {s : State} (h : s.op = 3) : s.item = (endItems s.npad)[s.idx]? := by
  rw [State.item, State.pending_end h, endItems_getElem?]
  split_ifs <;> rfl

/-- The three parts of a WRITE: up to item 4 the start frame, then the packets, then the end frame
(`44_write.md` R132). -/
theorem State.item_write {s : State} (h : s.op = 4) : s.item =
    (startItems ++ ((List.replicate s.count (packetItems s.bright5 s.pixel)).flatten ++ endItems s.npad))[s.idx]? := by
  have hlen : (List.replicate s.count (packetItems s.bright5 s.pixel)).flatten.length = 4 * s.count := by
    simp [packetItems, Nat.mul_comm]
  by_cases hstart : s.idx < 5
  · rw [List.getElem?_append_left hstart, startItems_getElem?, State.item, State.pending_write h]
    split_ifs <;> simp [frameByte_startFrame]
  rw [List.getElem?_append_right (Nat.not_lt.mp hstart), show startItems.length = 5 from rfl]
  by_cases hpixel : s.idx < 5 + 4 * s.count
  · obtain ⟨i, k, hi, hk, hidx⟩ : ∃ i k, i < s.count ∧ k < 4 ∧ s.idx = 5 + 4 * i + k :=
      ⟨(s.idx - 5) / 4, (s.idx - 5) % 4, by omega, by omega, by omega⟩
    have hitem := State.item_write_pixel h hi hk
    rw [← hidx] at hitem
    rw [List.getElem?_append_left (by omega), show s.idx - 5 = 4 * i + k by omega,
      getElem?_flatten_replicate rfl hi hk]
    exact hitem
  · rw [List.getElem?_append_right (by omega), hlen, endItems_getElem?, State.item, State.pending_write h,
      if_neg (by omega), if_neg hstart, if_neg hpixel]
    by_cases hpad : s.idx < 5 + 4 * s.count + s.npad
    · rw [if_pos hpad, if_pos (by omega)]
      rfl
    by_cases hlast : s.idx = 5 + 4 * s.count + s.npad
    · rw [if_neg hpad, if_pos hlast, if_neg (by omega), if_pos (by omega)]
    · rw [if_neg hpad, if_neg hlast, if_neg (by omega), if_neg (by omega)]

/-- Settles O16, operation by operation. -/
theorem itemIsTheElementOfTheExpansion : Obligations.ItemIsTheElementOfTheExpansion := by
  intro s
  refine ⟨fun h => ⟨State.item_init h, State.len_init h⟩, fun h => ⟨State.item_start h, State.len_start h⟩,
    fun h => ⟨State.item_color h, State.len_color h⟩, fun h => ⟨State.item_end h, State.len_end h⟩,
    fun h => ⟨?_, State.len_write h⟩, fun h => ?_⟩
  · rw [List.append_assoc, List.append_assoc]
    exact State.item_write h
  · have hop : s.op = 5 ∨ s.op = 6 ∨ s.op = 7 := by bv_omega
    exact ⟨by rw [State.item, State.pending_reserved hop], State.len_reserved hop⟩

end Sys2Proof.Machine
end

section
/-! SUPPORT. Runs: when one is over, that a busy block completes, and that the micro-steps of a command come to its command-level meaning and not before (45_bit_transfer.md R147, R154, R156). -/

namespace Sys2Proof.Machine

/-! ### Runs, step by step -/

/-- A run of one step more begins with a step. -/
theorem run_succ_inv {k : Nat} {s t : State} (h : run (k + 1) s = .next t) :
    ∃ u, step s = .next u ∧ run k u = .next t := by
  cases hs : step s with
  | next u => exact ⟨u, rfl, (run_step hs k).symm.trans h⟩
  | fault r => simp [run, hs] at h
  | refused r => simp [run, hs] at h

/-- What every step keeps holds after a run. -/
theorem run_keeps {p : State → Prop} (hp : ∀ s t, p s → step s = .next t → p t) {k : Nat} {s t : State}
    (hs : p s) (h : run k s = .next t) : p t := by
  induction k generalizing s with
  | zero => cases h; exact hs
  | succ k ih =>
    obtain ⟨u, hu, hrun⟩ := run_succ_inv h
    exact ih (hp s u hs hu) hrun

theorem BlockGoes.script_eq {inp : HostInput} {u b : State} (h : BlockGoes inp u b) : b.script = u.script := by
  cases h <;> simp

/-- Every step uses up one input. -/
theorem step_script {s t : State} (h : step s = .next t) : t.script = s.script.tail := by
  obtain ⟨-, b, hgo, rfl⟩ := step_cases h
  simp [hgo.script_eq]

theorem State.undisturbed_step {s t : State} (h : step s = .next t) (hu : s.undisturbed = true) :
    t.undisturbed = true := by
  rw [State.undisturbed, step_script h, ← List.drop_one]
  exact State.undisturbed_drop 1 hu

/-! ### When a run is over -/

theorem State.runStatus_over_iff (s : State) :
    s.runStatus = .over ↔ s.busy = false ∧ s.fault = false ∧ s.cmds = [] := by
  unfold State.runStatus
  split_ifs with hf hw
  · simp [hf]
  · have hwork : s.busy = true ∨ s.cmds ≠ [] := by simpa using hw
    exact iff_of_false nofun fun ⟨hb, _, hq⟩ => hwork.elim (by simp [hb]) (fun h => h hq)
  · simpa [hf] using hw

theorem State.runStatus_endedInFault_iff (s : State) : s.runStatus = .endedInFault ↔ s.fault = true := by
  unfold State.runStatus
  split_ifs with hf <;> simp [hf]

/-- An idle block whose host has no more commands stays so: only reset and waiting are open to it. -/
theorem BlockGoes.over {inp : HostInput} {u b : State} (h : BlockGoes inp u b)
    (hu : u.busy = false ∧ u.fault = false ∧ u.cmds = []) : b.busy = false ∧ b.fault = false ∧ b.cmds = [] := by
  obtain ⟨hb, hf, hq⟩ := hu
  cases h with
  | reset => exact ⟨rfl, rfl, hq⟩
  | waits => exact ⟨hb, hf, hq⟩
  | faulted _ hf' => rw [hf] at hf'; cases hf'
  | fails _ _ hb' | configures _ _ hb' | setsData _ _ _ hb' | raisesClock _ _ _ hb' | lowersClock _ _ _ hb'
  | endsByte _ _ _ hb' => rw [hb] at hb'; cases hb'
  | accepts _ _ _ _ _ _ hq' | ignores _ _ _ _ _ _ hq' => rw [hq] at hq'; cases hq'

theorem step_over {s t : State} (hs : s.runStatus = .over) (h : step s = .next t) : t.runStatus = .over := by
  rw [State.runStatus_over_iff] at hs ⊢
  obtain ⟨-, b, hgo, rfl⟩ := step_cases h
  simpa using hgo.over (by simpa using hs)

theorem State.input_rst_of_all {s : State} (h : s.script.all (fun inp => !inp.rst) = true) : s.input.rst = false := by
  rw [State.input]
  cases hs : s.script with
  | nil => rfl
  | cons inp rest =>
    rw [hs, List.all_cons, Bool.and_eq_true] at h
    simpa using h.1

/-- Without reset a faulted block stays faulted (`10_state.md` R17). -/
theorem step_faulted {s t : State} (hs : s.fault = true ∧ s.script.all (fun inp => !inp.rst) = true)
    (h : step s = .next t) : t.fault = true ∧ t.script.all (fun inp => !inp.rst) = true := by
  obtain ⟨hf, hq⟩ := hs
  obtain ⟨-, -, hstay⟩ := theFaultRisesOnlyAtACfgItemAndFallsOnlyByReset s t h
  refine ⟨?_, ?_⟩
  · rw [hstay hf (State.input_rst_of_all hq)]
    exact hf
  · rw [step_script h, ← List.drop_one]
    exact all_drop 1 hq

theorem runResult_eq_some_iff (k : Nat) (s t : State) :
    runResult k s = some t ↔ run k s = .next t ∧ t.busy = false ∧ t.fault = false ∧ t.cmds = [] := by
  rw [← State.runStatus_over_iff, runResult]
  cases run k s with
  | next u =>
    simp only [Option.ite_none_right_eq_some, Option.some.injEq, Host.Outcome.next.injEq]
    exact ⟨fun ⟨hu, e⟩ => ⟨e, e ▸ hu⟩, fun ⟨e, ht⟩ => ⟨e ▸ ht, e⟩⟩
  | fault r => simp
  | refused r => simp

/-- Settles O36: the result is read off the state the run comes to; being over, and being faulted without reset, is kept
by every step. -/
theorem aRunThatIsOverStaysOverAndAFaultedOneHasNoResult :
    Obligations.ARunThatIsOverStaysOverAndAFaultedOneHasNoResult := by
  intro s
  refine ⟨s.runStatus_over_iff, s.runStatus_endedInFault_iff, fun hs k t h => run_keeps (fun _ _ => step_over) hs h,
    fun hf hq k => ?_, fun hb => ?_, fun k t => runResult_eq_some_iff k s t⟩
  · refine Option.eq_none_iff_forall_ne_some.mpr fun t ht => ?_
    obtain ⟨hrun, -, hf', -⟩ := (runResult_eq_some_iff k s t).mp ht
    obtain ⟨hft, -⟩ := run_keeps (fun _ _ => step_faulted) ⟨hf, hq⟩ hrun
    rw [hft] at hf'
    cases hf'
  · refine Option.eq_none_iff_forall_ne_some.mpr fun t ht => ?_
    obtain ⟨hrun, hb', -⟩ := (runResult_eq_some_iff 0 s t).mp ht
    cases hrun
    rw [hb] at hb'
    cases hb'

/-! ### A busy block completes -/

/-- The length of a command does not change while it runs. -/
theorem BlockGoes.len_of_busy {inp : HostInput} {u b : State} (h : BlockGoes inp u b) (hr : inp.rst = false)
    (hb : u.busy = true) : b.len = u.len := by
  cases h with
  | reset hr' => rw [hr] at hr'; cases hr'
  | accepts _ _ _ _ hb' | ignores _ _ _ _ hb' => rw [hb] at hb'; cases hb'
  | faulted | waits | fails => rfl
  | configures | setsData | raisesClock | lowersClock | endsByte => simp

/-- Inside the expansion the position is below its end (`45_bit_transfer.md` R154). -/
theorem State.PositionInv.place_lt {s : State} (h : s.PositionInv) (hb : s.busy = true) : s.place < 24 * s.len := by
  have hidx := h.busyInside hb
  have hsub : s.sub.toNat ≤ 2 := by have := h.subLegal; bv_omega
  have hbit := s.bit.isLt
  rw [State.place]
  omega

/-- An undisturbed step of a busy block ends the command or moves the position on, and never faults. -/
theorem step_undisturbed {s : State} (hs : s.Inv) (hb : s.busy = true) (hf : s.fault = false)
    (hu : s.undisturbed = true) :
    ∃ t, step s = .next t ∧ t.Inv ∧ t.fault = false ∧ t.undisturbed = true
      ∧ (t.busy = false ∨ (t.busy = true ∧ t.len = s.len ∧ s.place < t.place)) := by
  obtain ⟨hr, hw, hfail⟩ := State.input_calm hu
  obtain ⟨t, h⟩ := theBlockAlwaysTakesItsNextStep s hs (by rw [HostInput.writesLegal, hw]; rfl)
  have hft : t.fault = false := by
    by_contra hc
    obtain ⟨-, -, hfail', -⟩ := (theFaultRisesOnlyAtACfgItemAndFallsOnlyByReset s t h).1 hf (by simpa using hc)
    rw [hfail] at hfail'
    cases hfail'
  refine ⟨t, h, everyStepKeepsTheInvariant s t hs h, hft, State.undisturbed_step h hu, ?_⟩
  obtain hft' | ⟨hbt, -⟩ | ⟨hbt, hplace⟩ := thePositionMovesForward s t hs hb hf hr h
  · rw [hft] at hft'; cases hft'
  · exact .inl hbt
  · obtain ⟨-, b, hgo, rfl⟩ := step_cases h
    exact .inr ⟨hbt, by simpa using hgo.len_of_busy hr (by simpa using hb), hplace⟩

/-- A busy block left undisturbed takes at most as many steps as its position has places before it. -/
theorem State.run_completes {s : State} (n : Nat) (hs : s.Inv) (hb : s.busy = true) (hf : s.fault = false)
    (hu : s.undisturbed = true) (hn : 24 * s.len ≤ s.place + n) :
    ∃ k t, k ≤ n ∧ run k s = .next t ∧ t.busy = false ∧ t.fault = false := by
  induction n generalizing s with
  | zero => exact absurd (hs.position.place_lt hb) (by omega)
  | succ n ih =>
    obtain ⟨t, h, ht, hft, hut, hbt | ⟨hbt, hlen, hplace⟩⟩ := step_undisturbed hs hb hf hu
    · exact ⟨1, t, by omega, run_one h, hbt, hft⟩
    · obtain ⟨k, u, hk, hrun, hbu, hfu⟩ := ih ht hbt hft hut (by omega)
      exact ⟨k + 1, u, by omega, (run_step h k).trans hrun, hbu, hfu⟩

/-- Settles O29: the position moves on at every step and cannot pass the end of the expansion. -/
theorem aBusyBlockCompletes : Obligations.ABusyBlockCompletes := by
  intro s hs hb hf hu
  exact State.run_completes _ hs hb hf hu (by rw [State.place]; omega)

/-! ### The micro-steps of a command -/

/-- Without reset a step logs one event of a busy block, or none. -/
theorem step_evt_length {s t : State} (h : step s = .next t) (hr : s.input.rst = false) :
    t.evt.length = s.evt.length ∨ (t.evt.length = s.evt.length + 1 ∧ s.busy = true) := by
  obtain hs | ⟨e, -, hb, -, he⟩ := step_silent_or_performed h hr
  · exact .inl (by rw [hs.evt])
  · exact .inr ⟨by rw [he.evt, List.length_append]; rfl, hb⟩

theorem run_evt_length_le {m : Nat} {s t : State} (hu : s.undisturbed = true) (h : run m s = .next t) :
    t.evt.length ≤ s.evt.length + m := by
  induction m generalizing s with
  | zero => cases h; exact Nat.le_refl _
  | succ m ih =>
    obtain ⟨u, hs, hrun⟩ := run_succ_inv h
    have := ih (State.undisturbed_step hs hu) hrun
    obtain hl | ⟨hl, -⟩ := step_evt_length hs (State.input_calm hu).1 <;> omega

/-- A run that logs as many events as it has steps is one of a block busy before every step. -/
theorem busy_of_run_evt_length {m : Nat} {s t : State} (hu : s.undisturbed = true) (h : run m s = .next t)
    (hl : t.evt.length = s.evt.length + m) {k : Nat} (hk : k < m) : ∃ u, run k s = .next u ∧ u.busy = true := by
  induction m generalizing s k with
  | zero => cases hk
  | succ m ih =>
    obtain ⟨u, hs, hrun⟩ := run_succ_inv h
    have hle := run_evt_length_le (State.undisturbed_step hs hu) hrun
    obtain hsilent | ⟨hevent, hb⟩ := step_evt_length hs (State.input_calm hu).1
    · omega
    cases k with
    | zero => exact ⟨s, rfl, hb⟩
    | succ k =>
      obtain ⟨v, hv, hbv⟩ := ih (State.undisturbed_step hs hu) hrun (by omega) (Nat.lt_of_succ_lt_succ hk)
      exact ⟨v, (run_step hs k).trans hv, hbv⟩

/-- An operation's expansion has as many events as the operation has pin-event steps (`45_bit_transfer.md` R154). -/
theorem State.itemEvents_expand_length (s : State) {i : Instr} (ho : i.isOperation = true) :
    (itemEvents (s.expand i)).length = microSteps i := by
  cases i with
  | init | start | color => rfl
  | endFrame n =>
    rw [itemEvents_length, State.expand, endItems, stepsOf_append, stepsOf_zeros]
    rfl
  | write n v => exact s.events_write_length n v
  | reserved5 | reserved6 | reserved7 | wireStartFrame | wirePixel | wireEndPad => cases ho

theorem State.dropInputs_dropInputs (a b : Nat) (s : State) :
    (s.dropInputs a).dropInputs b = s.dropInputs (a + b) := by
  simp only [State.dropInputs, List.drop_drop]

/-- The command-level meaning does not read the host's side: the words that wait and the inputs to come. -/
theorem State.commandMeaning_takeCommand_dropInputs (s : State) (i : Instr) :
    (s.dropInputs 1).takeCommand.commandMeaning i = (s.commandMeaning i).takeCommand.dropInputs 1 := by
  have hx : (s.dropInputs 1).takeCommand.expand i = s.expand i := State.expand_congr rfl fun _ _ _ _ _ => rfl
  rw [State.commandMeaning, State.commandMeaning, hx, State.performAll_eq, State.performAll_eq]
  generalize itemEvents (s.expand i) = es
  clear hx
  cases i with
  | write n v => cases n <;> rfl
  | init | start | color | endFrame | reserved5 | reserved6 | reserved7 | wireStartFrame | wirePixel | wireEndPad => rfl

theorem microSteps_of_not_operation {i : Instr} (ho : i.isOperation = false) : microSteps i = 0 := by
  cases i with
  | init | start | color | endFrame | write => cases ho
  | reserved5 | reserved6 | reserved7 | wireStartFrame | wirePixel | wireEndPad => rfl

/-- An accepted operation is busy before each of its steps: every one of them logs an event of its expansion. -/
theorem State.busy_before_complete {s : State} {i : Instr} (ho : i.isOperation = true) (hr : s.cmdReady = true)
    (hu : s.undisturbed = true) {k : Nat} (hk : k < microSteps i) :
    ∃ t, run k (s.latched i).begun = .next t ∧ t.busy = true := by
  have hub : (s.latched i).begun.undisturbed = true := by simpa [State.undisturbed] using hu
  refine busy_of_run_evt_length hub (State.run_operation ho hr hu) ?_ hk
  rw [State.dropInputs_evt, (s.sent_commandMeaning ho).evt, List.length_append, s.itemEvents_expand_length ho]
  simp

/-- Settles O46: an operation is accepted and runs to its meaning, busy before each of its steps; a reserved word is
taken in one step. -/
theorem microStepsAgreeWithTheCommandMeaning : Obligations.MicroStepsAgreeWithTheCommandMeaning := by
  intro s i w rest hc hwf hw hq hr hu hwh
  have hdec : decodeCommand s.cfg w = i := by
    have h := decodeOfEncodeIsTheInstruction s.cfg i hwf
    rw [hw] at h
    exact Except.ok.inj h
  obtain ⟨hrst, hpw, -⟩ := State.input_calm hu
  have htaken := step_presented hr hq hrst hwh hpw hdec
  cases ho : i.isOperation with
  | false =>
    rw [microSteps_of_not_operation ho]
    refine ⟨?_, fun k h1 h0 => absurd h0 (by omega)⟩
    rw [ho, if_neg Bool.false_ne_true] at htaken
    rw [run_one htaken, State.commandMeaning, ho, if_neg Bool.false_ne_true]
    simp [State.takeCommand, State.withCmds, hq]
  | true =>
    refine ⟨?_, fun k h1 hk => ?_⟩
    · rw [State.run_command hr hu hq hwh hdec ho, State.commandMeaning_takeCommand_dropInputs,
        State.dropInputs_dropInputs]
    · rw [ho, if_pos rfl] at htaken
      obtain ⟨j, rfl⟩ : ∃ j, k = j + 1 := ⟨k - 1, by omega⟩
      rw [run_step htaken]
      exact State.busy_before_complete (s := (s.withCmds rest).dropInputs 1) ho hr (State.undisturbed_drop 1 hu) hk

end Sys2Proof.Machine
end

section
/-! SUPPORT. A step with reset leaves a ready block, the step right after the fault, and the pad of a shared clock pin (60_exceptions.md R162, R163, R173; 70_reset_and_hazards.md R190). -/

namespace Sys2Proof.Machine

/-! ### The step right after the fault -/

theorem State.cmdReady_of_fault {s : State} (h : s.fault = true) : s.cmdReady = false := by
  simp [State.cmdReady, h]

/-- A step with reset leaves an idle block without fault, whose port takes words (`70_reset_and_hazards.md` R190). -/
theorem step_of_rst {s t : State} (h : step s = .next t) (hr : s.input.rst = true) :
    t.fault = false ∧ t.busy = false ∧ t.idx = 0 ∧ t.cmdReady = true := by
  obtain ⟨-, b, hgo, rfl⟩ := step_cases h
  rw [hgo.of_rst hr]
  have hf : ((s.beginMicroStep s.input).resetBlock.endMicroStep s.input).fault = false := by simp
  have hb : ((s.beginMicroStep s.input).resetBlock.endMicroStep s.input).busy = false := by simp
  exact ⟨hf, hb, by simp, State.cmdReady_iff.mpr ⟨hb, hf⟩⟩

/-- Settles O30: a faulted block stands still without reset (O31), and reset wins over the fault. -/
theorem theStepAfterTheFaultChangesNothingWithoutReset :
    Obligations.TheStepAfterTheFaultChangesNothingWithoutReset := by
  intro s t u _ _ hf h
  obtain ⟨-, -, hstay⟩ := theFaultRisesOnlyAtACfgItemAndFallsOnlyByReset t u h
  exact ⟨State.cmdReady_of_fault hf, hstay hf, step_of_rst h⟩

/-! ### The pad of a shared clock pin -/

theorem sharedClockPad_undriven_iff (l : List Pins) : sharedClockPad l = .undriven ↔ ∀ q ∈ l, q.clkOe = false := by
  simp [sharedClockPad, padOf_undriven_iff]

theorem sharedClockPad_high_iff (l : List Pins) :
    sharedClockPad l = .high ↔ (∃ q ∈ l, q.clkOe = true) ∧ ∃ q ∈ l, q.clkLvl = true := by
  have hpad : ∀ oe lvl : Bool, padOf oe lvl = .high ↔ oe = true ∧ lvl = true := by decide
  rw [sharedClockPad, hpad, List.any_eq_true, List.any_eq_true]

/-- Instances with their level low add nothing to the OR of the levels. -/
theorem any_clkLvl_of_others_low {before after : List Pins} (p : Pins)
    (h : ∀ q ∈ before ++ after, q.clkLvl = false) : (before ++ p :: after).any (·.clkLvl) = p.clkLvl := by
  have hlow : (before ++ after).any (·.clkLvl) = false :=
    List.any_eq_false.mpr fun q hq => by simp [h q hq]
  rw [List.any_append, Bool.or_eq_false_iff] at hlow
  obtain ⟨hbefore, hafter⟩ := hlow
  rw [List.any_append, List.any_cons, hbefore, hafter, Bool.or_false, Bool.false_or]

/-- Settles O59: the levels of all instances but one drop out of the OR. -/
theorem idleInstancesAddNothingToASharedClock : Obligations.IdleInstancesAddNothingToASharedClock :=
  ⟨fun l => ⟨sharedClockPad_undriven_iff l, sharedClockPad_high_iff l⟩,
    fun _ _ p h => by rw [sharedClockPad, any_clkLvl_of_others_low p h]⟩

end Sys2Proof.Machine
end

section
/-! SUPPORT. A step with reset, whatever the state and the other inputs are, gives the power-on block (60_exceptions.md R168; 70_reset_and_hazards.md R190, R191). -/

namespace Sys2Proof.Machine

/-- Settles O6: reset is a way of the block's micro-step from every state; the pixel space is the host's by O55. -/
theorem resetWinsOverEverything : Obligations.ResetWinsOverEverything := by
  intro s hr hw
  have hgo : BlockGoes s.input (s.beginMicroStep s.input) (s.beginMicroStep s.input).resetBlock := .reset hr
  have hstep := hgo.step_eq hw
  have hpix := theBlockWritesNoPixel _ _ hstep
  rw [State.endMicroStep_eq] at hstep hpix
  exact ⟨_, hstep, rfl, rfl, rfl, rfl, rfl, rfl, rfl, rfl, rfl, State.beginMicroStep_cmds _ _,
    State.beginMicroStep_cfg _ _, hpix⟩

/-- What reset leaves alone are the parameters and the host's side; all else is at its power-on value
(`70_reset_and_hazards.md` R191). -/
theorem State.resetBlock_eq (s : State) :
    s.resetBlock = { State.reset with
      cfg := s.cfg, pix := s.pix, draws := s.draws, cmds := s.cmds, script := s.script } := rfl

/-- Settles O7: a step whose inputs write nothing is the block's micro-step, here reset, with one input used up. -/
theorem laterResetGivesThePowerOnState : Obligations.LaterResetGivesThePowerOnState := by
  intro s hr hw
  have hgo : BlockGoes s.input (s.dropInputs 1) (s.dropInputs 1).resetBlock := .reset hr
  rw [step_of_no_writes hw, hgo.blockStep_eq, State.resetBlock_eq, State.dropInputs_script, List.drop_one]
  rfl

end Sys2Proof.Machine
end

section
/-! SUPPORT. The grammar of a well-formed transaction against its explicit form (70_reset_and_hazards.md R203, R204; 44_write.md R136). -/

namespace Sys2Proof.Machine

/-! ### A frame by hand -/

/-- COLOR of the four operand bytes red, green, blue and brightness. -/
def colorOf (p : Byte × Byte × Byte × Byte) : Instr := .color p.1 p.2.1 p.2.2.1 p.2.2.2

/-- INIT `k` times, START, a COLOR for each of `ps`, and END `m` (`70_reset_and_hazards.md` R203). -/
def handFrame (k : Nat) (ps : List (Byte × Byte × Byte × Byte)) (m : Nat) : List Instr :=
  List.replicate k .init ++ .start :: ps.map colorOf ++ [.endFrame m]

theorem handFrame_zero (ps : List (Byte × Byte × Byte × Byte)) (m : Nat) :
    handFrame 0 ps m = .start :: (ps.map colorOf ++ [.endFrame m]) := rfl

theorem handFrame_succ (k : Nat) (ps : List (Byte × Byte × Byte × Byte)) (m : Nat) :
    handFrame (k + 1) ps m = .init :: handFrame k ps m := rfl

/-! ### What the grammar takes -/

/-- Behind the START the count of the END decides (`70_reset_and_hazards.md` R204). -/
theorem colorsThenEnd_colors (ps : List (Byte × Byte × Byte × Byte)) (sent m : Nat) :
    colorsThenEnd sent (ps.map colorOf ++ [.endFrame m]) = decide (m = sent + ps.length) := by
  induction ps generalizing sent with
  | nil => rfl
  | cons p ps ih =>
    have hcount : sent + 1 + ps.length = sent + (p :: ps).length := by rw [List.length_cons]; omega
    rw [← hcount]
    exact ih (sent + 1)

theorem frameByHand_handFrame (k m : Nat) (ps : List (Byte × Byte × Byte × Byte)) :
    frameByHand (handFrame k ps m) = decide (m = ps.length) := by
  induction k with
  | zero =>
    have h := colorsThenEnd_colors ps 0 m
    rwa [Nat.zero_add] at h
  | succ k ih => exact ih

/-- A WRITE is no part of a frame by hand, so a list that is not one WRITE by itself is judged as such a frame. -/
theorem wellFormedTransaction_handFrame (k m : Nat) (ps : List (Byte × Byte × Byte × Byte)) :
    wellFormedTransaction (handFrame k ps m) = decide (m = ps.length) := by
  rw [← frameByHand_handFrame k m ps]
  cases k <;> rfl

/-! ### What the grammar takes has the form -/

theorem exists_colors_of_colorsThenEnd {is : List Instr} {sent : Nat} (h : colorsThenEnd sent is = true) :
    ∃ ps : List (Byte × Byte × Byte × Byte), is = ps.map colorOf ++ [.endFrame (sent + ps.length)] := by
  induction is generalizing sent with
  | nil => cases h
  | cons i is ih =>
    cases i with
    | color r g b v =>
      obtain ⟨ps, rfl⟩ := ih (sent := sent + 1) h
      refine ⟨(r, g, b, v) :: ps, ?_⟩
      rw [List.length_cons, Nat.add_comm ps.length, ← Nat.add_assoc]
      rfl
    | endFrame n =>
      cases is with
      | nil => exact ⟨[], by rw [show n = sent from beq_iff_eq.mp h]; rfl⟩
      | cons => cases h
    | init | start | write | reserved5 | reserved6 | reserved7 | wireStartFrame | wirePixel | wireEndPad => cases h

theorem exists_handFrame_of_frameByHand {is : List Instr} (h : frameByHand is = true) :
    ∃ k ps, is = handFrame k ps ps.length := by
  induction is with
  | nil => cases h
  | cons i is ih =>
    cases i with
    | init =>
      obtain ⟨k, ps, rfl⟩ := ih h
      exact ⟨k + 1, ps, rfl⟩
    | start =>
      obtain ⟨ps, rfl⟩ := exists_colors_of_colorsThenEnd (sent := 0) h
      exact ⟨0, ps, by rw [handFrame_zero, Nat.zero_add]⟩
    | color | endFrame | write | reserved5 | reserved6 | reserved7 | wireStartFrame | wirePixel | wireEndPad => cases h

/-- The two kinds of well-formed transactions (`70_reset_and_hazards.md` R203). -/
theorem wellFormedTransaction_iff (is : List Instr) :
    wellFormedTransaction is = true ↔
      (∃ n v, is = [.write n v]) ∨ ∃ k ps, is = handFrame k ps ps.length := by
  constructor
  · intro h
    unfold wellFormedTransaction at h
    split at h
    · exact .inl ⟨_, _, rfl⟩
    · exact .inr (exists_handFrame_of_frameByHand h)
  · rintro (⟨n, v, rfl⟩ | ⟨k, ps, rfl⟩)
    · rfl
    · rw [wellFormedTransaction_handFrame]
      exact decide_eq_true rfl

/-! ### The host's own expansion -/

/-- The host's own expansion of a WRITE is a frame by hand, one COLOR for each pixel (`44_write.md` R136). -/
theorem State.hostExpansion_eq_handFrame (s : State) (n : Nat) (v : Byte) :
    s.hostExpansion n v = handFrame 0
      ((List.range n).map fun i => ((s.pixelAt i).red, (s.pixelAt i).green, (s.pixelAt i).blue, v)) n := by
  rw [handFrame_zero, List.map_map]
  rfl

/-- Settles O48, the explicit form being `handFrame`. -/
theorem theHostsExpansionIsAWellFormedTransaction : Obligations.TheHostsExpansionIsAWellFormedTransaction := by
  refine ⟨wellFormedTransaction_iff, wellFormedTransaction_handFrame, fun s n v => ?_⟩
  rw [s.hostExpansion_eq_handFrame, wellFormedTransaction_handFrame]
  simp

end Sys2Proof.Machine
end

section
/-! SUPPORT. A well-formed transaction from the port: one complete transmission, which both receivers read back (30_encoding.md R64, R68; 45_bit_transfer.md R156; 70_reset_and_hazards.md R203). -/

namespace Sys2Proof.Machine

/-! ### The items of a complete transmission -/

/-- At least one `CfgItem`, the byte stream of the packets and a last `CfgItem`; `k` is the number of INITs before the
START. -/
def transmissionItems (k : Nat) (packets : List Packet) : List Item :=
  .cfgItem :: (List.replicate k .cfgItem ++ (streamBytes packets).map Item.byte) ++ [.cfgItem]

theorem sampledFrom_transmissionItems (k : Nat) (packets : List Packet) (p : Pins) :
    sampledFrom p (itemEvents (transmissionItems k packets)) = (streamBytes packets).flatMap byteBits := by
  have hcfgs : itemBits (List.replicate k .cfgItem) = [] := by simp [itemBits, Item.bits]
  have hlast : itemBits [.cfgItem] = [] := rfl
  rw [transmissionItems, List.cons_append, sampledFrom_cfgItem_cons, itemBits_append, itemBits_append, hcfgs, hlast,
    itemBits_bytes, List.nil_append, List.append_nil]

theorem itemEvents_transmissionItems (k : Nat) (packets : List Packet) :
    ∃ es, itemEvents (transmissionItems k packets) = es ++ [.cfg] :=
  ⟨_, itemEvents_append _ [.cfgItem]⟩

/-- After a complete transmission the lines are idle, `TX` = 0, and its bits are on `WIRE`. -/
theorem State.Sent.transmission {s t : State} {k : Nat} {packets : List Packet}
    (h : s.Sent (itemEvents (transmissionItems k packets)) t) :
    t.pins = .idle ∧ t.tx = false ∧ t.wire = s.wire ++ (streamBytes packets).flatMap byteBits := by
  obtain ⟨es, hes⟩ := itemEvents_transmissionItems k packets
  refine ⟨?_, ?_, ?_⟩
  · rw [h.pins, hes, Pins.afterAll_cfg_last]
  · rw [h.tx, hes, txAfterAll_cfg_last]
  · rw [h.wire, sampledFrom_transmissionItems]

/-! ### The items of a transaction -/

/-- A WRITE expands to a complete transmission of its packets. -/
theorem State.expand_write_eq_transmissionItems (s : State) (n : Nat) (v : Byte) :
    s.expand (.write n v) = transmissionItems 0 (s.packetsOf (.write n v)) := by
  rw [s.expand_write, s.writeTail_eq]
  rfl

/-- COLORs expand to the bytes of their packets. -/
theorem State.expand_colors (s : State) (ps : List (Byte × Byte × Byte × Byte)) :
    (ps.map colorOf).flatMap s.expand
      = (((ps.map colorOf).flatMap s.packetsOf).flatMap Packet.bytes).map Item.byte := by
  induction ps with
  | nil => rfl
  | cons p ps ih =>
    rw [List.map_cons, List.flatMap_cons, List.flatMap_cons, List.flatMap_append, List.map_append, ih]
    rfl

/-- Each COLOR sends one packet. -/
theorem State.packetsOf_colors_length (s : State) (ps : List (Byte × Byte × Byte × Byte)) :
    ((ps.map colorOf).flatMap s.packetsOf).length = ps.length := by
  induction ps with
  | nil => rfl
  | cons p ps ih =>
    rw [List.map_cons, List.flatMap_cons, List.length_append, ih, Nat.add_comm]
    rfl

/-- In a frame by hand only the COLORs send packets. -/
theorem State.packetsOf_handFrame (s : State) (k : Nat) (ps : List (Byte × Byte × Byte × Byte)) (m : Nat) :
    (handFrame k ps m).flatMap s.packetsOf = (ps.map colorOf).flatMap s.packetsOf := by
  induction k with
  | zero =>
    rw [handFrame_zero, List.flatMap_cons, List.flatMap_append]
    exact List.append_nil _
  | succ k ih => rw [handFrame_succ, List.flatMap_cons, ih]; rfl

/-- A frame by hand expands to a complete transmission of its packets. -/
theorem State.expand_handFrame (s : State) (k : Nat) (ps : List (Byte × Byte × Byte × Byte)) :
    (handFrame k ps ps.length).flatMap s.expand
      = transmissionItems k ((handFrame k ps ps.length).flatMap s.packetsOf) := by
  have hend : s.expand (.endFrame ps.length) = List.replicate (padBytes ps.length) (.byte 0) ++ [.cfgItem] := rfl
  have hstart : s.expand .start = .cfgItem :: (List.replicate 4 0).map Item.byte := rfl
  induction k with
  | zero =>
    rw [s.packetsOf_handFrame, handFrame_zero, List.flatMap_cons, List.flatMap_append, s.expand_colors,
      List.flatMap_singleton, hend, hstart, transmissionItems, streamBytes, s.packetsOf_colors_length]
    simp
  | succ k ih =>
    rw [handFrame_succ, List.flatMap_cons, ih, List.flatMap_cons]
    rfl

/-! ### The run of a transaction -/

theorem carriesItsOperands_of_mem_handFrame {k m : Nat} {ps : List (Byte × Byte × Byte × Byte)} {i : Instr}
    (h : i ∈ handFrame k ps m) : carriesItsOperands i = true := by
  simp only [handFrame, List.mem_append, List.mem_cons, List.mem_replicate, List.mem_map, List.not_mem_nil,
    or_false] at h
  obtain (⟨-, rfl⟩ | rfl | ⟨p, -, rfl⟩) | rfl := h
  · rfl
  · rfl
  · rfl
  · rfl

/-- A well-formed transaction presented to an undisturbed ready block sends a complete transmission of its packets, and
no word is left. -/
theorem State.run_transaction {s : State} {is : List Instr} (h : wellFormedTransaction is = true)
    (hi : ∀ i ∈ is, i.wellFormed s.cfg = true) (hq : s.cmds = is.filterMap commandWordOf) (hr : s.cmdReady = true)
    (hu : s.undisturbed = true) (hwh : s.script.all (fun inp => !inp.withhold) = true) :
    ∃ m k t, run m s = .next t
      ∧ ((s.withCmds []).dropInputs m).Sent (itemEvents (transmissionItems k (is.flatMap s.packetsOf))) t := by
  obtain ⟨n, v, rfl⟩ | ⟨k, ps, rfl⟩ := (wellFormedTransaction_iff is).mp h
  · obtain ⟨t, ht, hsent⟩ := State.run_presented hr hu (State.withhold_of_all hwh) (i := .write n v) rfl
      (hi _ List.mem_cons_self) rfl hq
    rw [s.expand_write_eq_transmissionItems] at hsent
    rw [List.flatMap_singleton]
    exact ⟨_, 0, t, ht, hsent⟩
  · obtain ⟨t, ht, hsent⟩ := State.run_commands _ hr hu hwh (fun _ => carriesItsOperands_of_mem_handFrame) hi hq
    rw [s.expand_handFrame] at hsent
    exact ⟨_, k, t, ht, hsent⟩

/-- Settles O49: the run's transmission leaves a ready block with idle lines and no word waiting, and the receivers read
any stream of packets back. -/
theorem aWellFormedTransactionSendsOneCompleteTransmission :
    Obligations.AWellFormedTransactionSendsOneCompleteTransmission := by
  intro s is h hi hq hr hu hwh
  obtain ⟨m, k, t, ht, hsent⟩ := State.run_transaction h (List.all_eq_true.mp hi) hq hr hu hwh
  obtain ⟨hpins, htx, hwire⟩ := hsent.transmission
  have hfault : t.fault = false := hsent.fault.trans (State.cmdReady_iff.mp hr).2
  refine ⟨m, t, _, _, rfl, rfl, (runResult_eq_some_iff m s t).mpr ⟨ht, hsent.busy, hfault, hsent.cmds⟩, hwire, hpins,
    State.status_of_ready_idle (State.cmdReady_iff.mpr ⟨hsent.busy, hfault⟩) hpins htx, ?_, ?_⟩
  · rw [bytesOfBits_flatMap, decodeStream_streamBytes]
  · rw [bytesOfBits_flatMap, decodeStreamOf_streamBytes]

end Sys2Proof.Machine
end

section
/-! SUPPORT. The cycles of a command: the dwell of each of its micro-steps is that of its acceptance or of one event of its expansion (70_reset_and_hazards.md R210, R211). -/

namespace Sys2Proof.Machine

/-! ### The word on the port -/

/-- The word of a well-formed instruction decodes to it (O8). -/
theorem decodeCommand_of_encode {cfg : Config} {i : Instr} {w : CommandWord} (hi : i.wellFormed cfg = true)
    (hw : encode i = .cmd w) : decodeCommand cfg w = i := by
  have h := decodeOfEncodeIsTheInstruction cfg i hi
  rw [hw] at h
  exact Except.ok.inj h

/-! ### Cycles of events -/

theorem eventCycles_cons (cfg : Config) (e : PinEvent) (es : List PinEvent) :
    eventCycles cfg (e :: es) = dwellOfEvent cfg e + eventCycles cfg es := by
  simp [eventCycles]

/-- With all dwells 1 a list of events takes as many cycles as it has events. -/
theorem eventCycles_of_dwells_one {cfg : Config} (hs : cfg.tSetup = 1) (hh : cfg.tHigh = 1) (hl : cfg.tLow = 1)
    (hc : cfg.tCfg = 1) (es : List PinEvent) : eventCycles cfg es = es.length := by
  have hone : ∀ e, dwellOfEvent cfg e = 1 := by
    intro e
    cases e with
    | setD v => exact hs
    | setC v =>
      cases v with
      | true => exact hh
      | false => exact hl
    | cfg => exact hc
  induction es with
  | nil => rfl
  | cons e es ih => rw [eventCycles_cons, hone, ih, List.length_cons, Nat.add_comm]

/-! ### The dwell of a micro-step -/

theorem State.nextEvent_dropInputs (n : Nat) (s : State) : (s.dropInputs n).nextEvent = s.nextEvent := by
  rw [State.nextEvent, State.fetchIfDue_dropInputs]
  rfl

theorem State.beginMicroStep_of_no_writes {s : State} {inp : HostInput} (h : inp.pixWrites = []) :
    s.beginMicroStep inp = s.dropInputs 1 := by
  simp only [State.beginMicroStep, State.dropInputs, h, Memory.writeAll_nil, List.drop_one, ite_self]

/-- The dwell of an acceptance. -/
theorem State.dwell_of_presented {s : State} {w : CommandWord} {rest : List CommandWord} (hr : s.cmdReady = true)
    (hrst : s.input.rst = false) (hwh : s.input.withhold = false) (hq : s.cmds = w :: rest) :
    s.dwell = some s.cfg.tAccept := by
  obtain ⟨hb, hf⟩ := State.cmdReady_iff.mp hr
  simp [State.dwell, State.presented, hrst, hf, hb, hwh, hq]

/-- The dwell of a pin-event step that reports no failure. -/
theorem State.dwell_of_event {s : State} {e : PinEvent} (hb : s.busy = true) (hf : s.fault = false)
    (hrst : s.input.rst = false) (hfail : s.input.gpioCfgFail = false) (he : s.nextEvent = some e) :
    s.dwell = some (dwellOfEvent s.cfg e) := by
  simp [State.dwell, HostInput.cfgFails, hrst, hf, hb, hfail, he]

/-- An undisturbed step logs nothing, or one event whose dwell it has. -/
theorem step_logs_its_dwell {s t : State} (h : step s = .next t) (hu : s.undisturbed = true) :
    t.evt = s.evt ∨ ∃ e, t.evt = s.evt ++ [e] ∧ s.dwell = some (dwellOfEvent s.cfg e) := by
  obtain ⟨hrst, hw, hfail⟩ := State.input_calm hu
  obtain hsilent | ⟨e, he, hb, hf, hperformed⟩ := step_silent_or_performed h hrst
  · exact .inl hsilent.evt
  · rw [State.beginMicroStep_of_no_writes hw, State.nextEvent_dropInputs] at he
    exact .inr ⟨e, hperformed.evt, State.dwell_of_event hb hf hrst hfail he⟩

theorem step_cfg {s t : State} (h : step s = .next t) : t.cfg = s.cfg := by
  obtain ⟨-, b, hgo, rfl⟩ := step_cases h
  simp [hgo.cfg_pix.1]

/-! ### The cycles of a run -/

theorem runCycles_step {s t : State} (h : step s = .next t) (k : Nat) :
    runCycles (k + 1) s = s.dwell.getD 0 + runCycles k t := by
  simp [runCycles, h]

/-- An undisturbed run logs at most an event a step; where it logs one in every step its cycles are those of its
events. -/
theorem run_evt_cycles {m : Nat} {s t : State} (hu : s.undisturbed = true) (h : run m s = .next t) :
    ∃ es, t.evt = s.evt ++ es ∧ es.length ≤ m ∧ (es.length = m → runCycles m s = eventCycles s.cfg es) := by
  induction m generalizing s with
  | zero =>
    cases h
    exact ⟨[], (List.append_nil _).symm, Nat.le_refl _, fun _ => rfl⟩
  | succ m ih =>
    obtain ⟨u, hs, hrun⟩ := run_succ_inv h
    obtain ⟨es, hes, hlen, hcycles⟩ := ih (State.undisturbed_step hs hu) hrun
    obtain hsilent | ⟨e, he, hdwell⟩ := step_logs_its_dwell hs hu
    · exact ⟨es, by rw [hes, hsilent], by omega, fun hfull => by omega⟩
    · refine ⟨e :: es, by rw [hes, he, List.append_assoc]; rfl, Nat.succ_le_succ hlen, fun hfull => ?_⟩
      rw [runCycles_step hs, hdwell, hcycles (Nat.succ_injective hfull), step_cfg hs, eventCycles_cons]
      rfl

/-- The micro-steps of an accepted operation take the cycles of the events of its expansion. -/
theorem State.runCycles_operation {s : State} {i : Instr} (ho : i.isOperation = true) (hr : s.cmdReady = true)
    (hu : s.undisturbed = true) :
    runCycles (microSteps i) (s.latched i).begun = eventCycles s.cfg (itemEvents (s.expand i)) := by
  have hub : (s.latched i).begun.undisturbed = true := by simpa [State.undisturbed] using hu
  obtain ⟨es, hes, -, hcycles⟩ := run_evt_cycles hub (State.run_operation ho hr hu)
  have hevents : es = itemEvents (s.expand i) := by
    rw [State.dropInputs_evt, (s.sent_commandMeaning ho).evt, State.begun_evt, State.latched_evt] at hes
    exact (List.append_cancel_left hes).symm
  rw [hcycles (by rw [hevents, s.itemEvents_expand_length ho]), hevents, State.begun_cfg, State.latched_cfg]

/-- Settles O58: the first micro-step is the acceptance, and each of the others performs one event of the expansion. -/
theorem cyclesOfACommand : Obligations.CyclesOfACommand := by
  intro s i w rest ho hwf hw hq hr hu hwh
  obtain ⟨hrst, hpw, -⟩ := State.input_calm hu
  have htaken := step_presented hr hq hrst hwh hpw (decodeCommand_of_encode hwf hw)
  rw [if_pos ho] at htaken
  have hcycles := State.runCycles_operation (s := (s.withCmds rest).dropInputs 1) ho hr (State.undisturbed_drop 1 hu)
  have hx : ((s.withCmds rest).dropInputs 1).expand i = s.expand i := State.expand_congr rfl fun _ _ _ _ _ => rfl
  rw [hx] at hcycles
  refine ⟨?_, fun hsetup hhigh hlow hcfg haccept => ?_⟩
  · rw [Nat.add_comm, runCycles_step htaken, State.dwell_of_presented hr hrst hwh hq, hcycles]
    rfl
  · rw [State.commandCycles, haccept, eventCycles_of_dwells_one hsetup hhigh hlow hcfg, s.itemEvents_expand_length ho]

end Sys2Proof.Machine
end

section
/-! SUPPORT. Reserved words, and the faults of the interface with the states that meet them (30_encoding.md R77; 10_state.md R24; 20_memory.md R41; 45_bit_transfer.md R150, R152). -/

namespace Sys2Proof.Machine

/-! ### Reserved words -/

/-- A word whose operation code is 5, 6 or 7 names no operation. -/
theorem decodeCommand_of_reserved (cfg : Config) {w : CommandWord} (h : 5 ≤ (cmdOp w).toNat) :
    (decodeCommand cfg w).isOperation = false := by
  rw [← opCode_decodeCommand cfg w] at h
  cases hi : decodeCommand cfg w with
  | init | start | color | endFrame | write =>
    rw [hi] at h
    exact absurd h (by simp [Instr.opCode])
  | reserved5 | reserved6 | reserved7 | wireStartFrame | wirePixel | wireEndPad => rfl

/-- Settles O20: a reserved code is a command but no operation, so a ready block takes it and is left as it was. -/
theorem reservedWordsAreTakenAndIgnored : Obligations.ReservedWordsAreTakenAndIgnored := by
  intro s hr
  refine ⟨exec_of_ready (i := .reserved5) rfl hr, exec_of_ready (i := .reserved6) rfl hr,
    exec_of_ready (i := .reserved7) rfl hr, fun w rest hq hop hrst hwh hw => ?_⟩
  rw [step_presented hr hq hrst hwh hw rfl, decodeCommand_of_reserved s.cfg hop, if_neg Bool.false_ne_true,
    State.dropInputs, List.drop_one]
  rfl

/-! ### The faults of the interface -/

/-- `SUB` = 3 names no pin event of a bit. -/
theorem byteStep_sub3 {s : State} (v : Byte) (hb : s.busy = true) (hf : s.fault = false) (h : s.sub = 3) :
    s.byteStep v = .fault .subOutOfRange := by
  simp [State.byteStep, hb, hf, h]

/-- A block that is idle or faulted performs no pin event. -/
theorem byteStep_of_standing {s : State} (v : Byte) (h : s.busy = false ∨ s.fault = true) :
    s.byteStep v = .next s := by
  rw [State.byteStep, if_neg]
  obtain hb | hf := h
  · simp [hb]
  · simp [hf]

/-- Past the expansion there is no item to perform; a pixel fetch does not move the position. -/
theorem State.busyStep_past_expansion (inp : HostInput) {s : State} (h : s.len ≤ s.idx) :
    s.busyStep inp = .fault .noSuchItem := by
  have hp : s.fetchIfDue.pending = .nothing := State.pending_nothing_iff.mpr (by simpa using h)
  rw [State.busyStep]
  simp only [hp]

/-- Host writes outside the pixel space stop the step before the block's micro-step. -/
theorem step_of_illegal_writes {s : State} (h : s.input.writesLegal s.cfg = false) :
    step s = .fault .hostWriteOutsidePixelSpace := by
  rw [step, State.microStep, if_neg (Bool.eq_false_iff.mp h)]

/-- Settles O45: each fault has its own test in the step, and the invariant on the position excludes the two that are
about the block's own state. -/
theorem whereTheInterfaceStops : Obligations.WhereTheInterfaceStops := by
  refine fun s => ⟨fun f hc hb hf hsub => ?_, fun f hc hstands => ?_, fun hb hf hrst hw hpast => ?_,
    step_of_illegal_writes, fun hs => ⟨hs.position.subLegal, hs.position.busyInside⟩⟩
  · rw [exec_of_frame hc, byteStep_sub3 _ hb hf hsub]
  · rw [exec_of_frame hc, byteStep_of_standing _ hstands]
  · rw [step_of_legal hw, State.blockStep_of_busy hrst (by simpa using hf) (by simpa using hb),
      State.busyStep_past_expansion _ (by simpa using hpast)]
    rfl

end Sys2Proof.Machine
end
